-- ==== Sys2Proof/Word.lean ====
section
/-! DEFINITION. The machine's word types and the eight-byte frame (spec/00_scope.md R5, R7).
Every quantity of this hardware is unsigned (R7, R117). -/

namespace Sys2Proof

/-- `u8` of rule R7: one byte. -/
abbrev Byte := BitVec 8

/-- `u16` of rule R7: the width of the CRC and of its accumulator (R5, R24). -/
abbrev Crc := BitVec 16

/-- A frame: "exactly 8 bytes, the atomic unit of transmission" (R5, R130). `b0` is the byte at the lowest
image offset (R53). -/
structure Frame where
  b0 : Byte
  b1 : Byte
  b2 : Byte
  b3 : Byte
  b4 : Byte
  b5 : Byte
  b6 : Byte
  b7 : Byte
  deriving DecidableEq, Repr

end Sys2Proof
end

