-- ==== Sys2Proof/Syntax.lean ====
section
/-! DEFINITION. The names of the hardware: channels, command codes, protocol states, error kinds, the transport
operations it emits, the events that reach it, and `Instr`, one constructor per row of spec/opcode_table.json.
Their encodings are functions of Sys2Proof/Decode.lean. -/

namespace Sys2Proof

/-- The two arbitration identifiers of rule R51. -/
inductive Channel where
  | update
  | crcAck
  deriving DecidableEq, Repr

/-- The nine codes of rule R105. -/
inductive CommandCode where
  | sendStatus
  | loadNewProgram
  | crcSucceeded
  | lastFrame
  | programStart
  | crcFailed
  | writeToFlash
  | eraseFailed
  | programEnd
  deriving DecidableEq, Repr

/-- The protocol state of rule R21: exactly nine values (U12). -/
inductive ProtoState where
  | idle
  | erasing
  | transferring
  | awaitingPageCrc
  | pageAccepted
  | pageRejected
  | completing
  | done
  | aborted
  deriving DecidableEq, Repr

/-- The error kinds of rules R26 and R190: exactly eight values (U12). -/
inductive ErrorKind where
  | none
  | eraseFailed
  | transportTimeout
  | malformedResponse
  | cancelled
  | imageNotFrameAligned
  | imageEmpty
  | outOfRange
  deriving DecidableEq, Repr

/-- The class of a frame (R137). `challenge true` is the challenge that the last-frame marker precedes. -/
inductive FrameClass where
  | midPage
  | challenge (marker : Bool)
  deriving DecidableEq, Repr

/-- The four transport operations (R80) with the fields of the TX format (R70). The timeout is handed to the
transport and read by no rule (R211). -/
inductive TransportOp where
  | connect
  | close
  | send (channel : Channel) (code : CommandCode) (payload : List Byte)
  | request (channel : Channel) (code : CommandCode) (timeout : Nat) (payload : List Byte) (respChannel : Channel)
  deriving DecidableEq, Repr

/-- What can move the block at one step: the five events of rule R203, or `internal`, the block's own step, which
needs no input (R150). -/
inductive Event where
  | internal
  | start (len : Nat)
  | cancel
  | reset
  | rsp (payload : List Byte)
  | tmo
  deriving DecidableEq, Repr

/-- The rows of spec/opcode_table.json, in the table's order. The messages carry no operand: their payloads are
fixed by their rules (R85, R86). An operation's operands are those its rule lists; where a rule names a register
as its operand and the table lists no field, the register is read. -/
inductive Instr where
  -- TX messages (R96 to R102)
  | msgProgramStart
  | msgWriteFrame
  | msgLastFrameMark
  | msgCrcChallenge
  | msgCrcOk
  | msgCrcFail
  | msgProgramEnd
  -- RX responses (R103, R104): the response payload, offset 0 first
  | rspStartStatus (r : List Byte)
  | rspCrcAck (r : List Byte)
  -- the CRC engine (R110 to R115)
  | crcUpdate (acc : Crc) (byte : Byte)
  | crcBitstep (acc : Crc)
  | crcClear
  | crcFold8 (acc : Crc) (frame : Frame)
  | crcSeq (acc : Crc) (bytes : List Byte)
  -- the chunker (R131 to R137)
  | byteAddr (index : Nat) (k : BitVec 3)
  | totalFrames (imageLen : Nat)
  | isLastFrame (index imageLen : Nat)
  | isPageBoundary (frameInPage : BitVec 8)
  | frameAt (index : Nat)
  | curIndex
  | classify
  -- the transfer state machine (R151 to R168, R220)
  | start (len : Nat)
  | startBusy (len : Nat)
  | eraseResp (r : List Byte)
  | eraseTmo
  | frame
  | frameCancel
  | crcResp (r : List Byte)
  | crcTmo
  | pageAccept
  | pageReject
  | complete
  | cancel
  | reset
  deriving DecidableEq, Repr

end Sys2Proof
end

