-- ==== Sys2Proof/Config.lean ====
section
/-! DEFINITION. The open parameters of the hardware (spec/00_scope.md R6, spec/92_eei_decisions.md): what an
implementation fixes and the spec leaves open. Their values for a given machine are one opaque constant. -/

namespace Sys2Proof

/-- How many bytes over three a marker payload has: N_START, N_OK, N_FAIL and N_END are each in 3..7 (R6, R86), so
the excess is 0..4. -/
abbrev MarkerExtra := Fin 5

/-- BYTE_DECODE (R92) as plain data. `asciiHex` is the reference instantiation of rule R93; `table` lists the pairs
that decode, with the byte each stands for (a pair not listed decodes to `none`; the first entry for a pair
counts), and expresses every function of two bytes (`Laws.Config.ByteDecode.apply_ofFun`). -/
inductive ByteDecode where
  | asciiHex
  | table (entries : List ((Byte × Byte) × Byte))
  deriving DecidableEq, Repr, Inhabited

/-- The parameters rule R6 leaves OPEN, as arguments of the model: each is fixed when the hardware is instantiated
and no rule writes one (R33). The two durations of R230 are not here: no rule reads them and "a model has no time
and represents neither". -/
structure Params where
  /-- ADDR_W: the width of an image offset and of `image_len` (R6, D3). -/
  addrW : Nat
  /-- N_START − 3. -/
  startExtra : MarkerExtra
  /-- N_OK − 3. -/
  okExtra : MarkerExtra
  /-- N_FAIL − 3. -/
  failExtra : MarkerExtra
  /-- N_END − 3. -/
  endExtra : MarkerExtra
  /-- START_TIMEOUT, handed to the transport unchanged (R96, R211). -/
  startTimeout : Nat
  /-- CRC_TIMEOUT, handed to the transport unchanged (R99, R211). -/
  crcTimeout : Nat
  /-- BYTE_DECODE (R92). -/
  byteDecode : ByteDecode
  deriving DecidableEq, Repr, Inhabited

/-- The parameters of the hardware at hand: a free value (log 1). Nothing is known of them but their types. -/
opaque Config.params : Params

end Sys2Proof
end

