-- ==== Sys2Proof/WellFormed.lean ====
section
/-! DEFINITION. Which instruction terms the hardware can be given: operands inside the widths and lengths that the
spec gives them (R72, R131 to R135, R151). A payload of at most 8 bytes is U14's "cannot be constructed". -/

namespace Sys2Proof

/-- IDX_W = ADDR_W − 3 (R6, R131). R6 puts no constraint on ADDR_W, and the spec does not say what IDX_W is where ADDR_W
is below 3. DESIGN CHOICE (log 32): it is then 0, as the subtraction on naturals gives it, so index 0 alone is a frame
index although its bytes 2 ^ ADDR_W to 7 have no ADDR_W-bit offset. -/
def idxW (p : Params) : Nat := p.addrW - 3

/-- An image offset or an image length fits ADDR_W bits (R25, R50). -/
def fitsAddr (p : Params) (n : Nat) : Bool := decide (n < 2 ^ p.addrW)

/-- A frame index fits IDX_W bits (R22, R131). -/
def fitsIndex (p : Params) (n : Nat) : Bool := decide (n < 2 ^ idxW p)

/-- A response payload has at most 8 bytes (R72). -/
def fitsPayload (r : List Byte) : Bool := decide (r.length ≤ 8)

/-- The term is an instruction of the hardware with parameters `p`. -/
def wellFormed (p : Params) : Instr → Bool
  | .msgProgramStart => true
  | .msgWriteFrame => true
  | .msgLastFrameMark => true
  | .msgCrcChallenge => true
  | .msgCrcOk => true
  | .msgCrcFail => true
  | .msgProgramEnd => true
  | .rspStartStatus r => fitsPayload r
  | .rspCrcAck r => fitsPayload r
  | .crcUpdate _ _ => true
  | .crcBitstep _ => true
  | .crcClear => true
  | .crcFold8 _ _ => true
  | .crcSeq _ _ => true
  | .byteAddr index _ => fitsIndex p index
  | .totalFrames imageLen => fitsAddr p imageLen
  | .isLastFrame index imageLen => fitsIndex p index && fitsAddr p imageLen
  | .isPageBoundary _ => true
  | .frameAt index => fitsIndex p index
  | .curIndex => true
  | .classify => true
  | .start len => fitsAddr p len
  | .startBusy len => fitsAddr p len
  | .eraseResp r => fitsPayload r
  | .eraseTmo => true
  | .frame => true
  | .frameCancel => true
  | .crcResp r => fitsPayload r
  | .crcTmo => true
  | .pageAccept => true
  | .pageReject => true
  | .complete => true
  | .cancel => true
  | .reset => true

end Sys2Proof
end

