-- ==== Sys2Proof/Decode.lean ====
section
/-! DEFINITION. The encodings of spec/30_encoding.md and the rule selection of spec/42_state_machine.md R150.

The block decodes no instruction words. What plays the part of decoding is (1) the 20-bit header word of the seven
TX messages (R71), (2) the choice of the response format by the protocol state (R72), and (3) the table of R150,
which says for a state and an event which rule fires. The 25 operations have no encoding (log 9). -/

namespace Sys2Proof

/-! ## Channels and codes -/

/-- CH_UPDATE and CH_CRC_ACK (R5, R51). -/
def channelId : Channel → BitVec 11
  | .update => 0x600
  | .crcAck => 0x601

/-- The code map (R5, R105). -/
def codeByte : CommandCode → Byte
  | .sendStatus => 0x00
  | .loadNewProgram => 0x02
  | .crcSucceeded => 0x03
  | .lastFrame => 0x04
  | .programStart => 0x05
  | .crcFailed => 0x07
  | .writeToFlash => 0x08
  | .eraseFailed => 0x22
  | .programEnd => 0xCC

/-- "All nine codes the source lists" (R105). -/
def allCodes : List CommandCode :=
  [.sendStatus, .loadNewProgram, .crcSucceeded, .lastFrame, .programStart, .crcFailed, .writeToFlash, .eraseFailed,
    .programEnd]

/-- The code a byte stands for, `none` for the values R106 lists as never emitted. -/
def codeOfByte (b : Byte) : Option CommandCode := allCodes.find? (fun c => codeByte c == b)

/-! ## Decoding a header word (R71) -/

/-- Why bytes are no header word of the block. -/
inductive DecodeError where
  /-- Fewer than three bytes. -/
  | tooShort
  /-- A bit above bit 19 is set: the header word has 20 bits (R71). -/
  | highBitsSet
  /-- Channel 0x601: "the block never sends on 0x601" (R70). -/
  | channelNeverSent
  /-- "No other identifier is ever produced" (R51). -/
  | noSuchChannel (id : BitVec 11)
  /-- A code value other than the nine listed (R106). -/
  | unlistedCode (code : Byte)
  /-- SEND_STATUS: "The block never emits it" (R106). -/
  | reservedCode
  /-- ERASE_FAILED or PROGRAM_END, which are used as the `code` field of no message (R105). -/
  | notACodeField (code : CommandCode)
  /-- A listed code with the other `kind` than its message has (R96 to R102). -/
  | wrongKind (code : CommandCode)
  deriving DecidableEq, Repr

/-- What decoding bytes gives: an instruction and the bytes after it, or a rejection by name. -/
inductive Decoded where
  | instr (i : Instr) (rest : List Byte)
  | rejected (e : DecodeError)
  deriving DecidableEq, Repr

/-- The message a `kind` (true for `Request`) and a code make (R96 to R102). -/
def messageOf (kind : Bool) (c : CommandCode) (rest : List Byte) : Decoded :=
  match c, kind with
  | .programStart, true => .instr .msgProgramStart rest
  | .writeToFlash, false => .instr .msgWriteFrame rest
  | .lastFrame, false => .instr .msgLastFrameMark rest
  | .writeToFlash, true => .instr .msgCrcChallenge rest
  | .crcSucceeded, false => .instr .msgCrcOk rest
  | .crcFailed, false => .instr .msgCrcFail rest
  | .loadNewProgram, false => .instr .msgProgramEnd rest
  | .sendStatus, _ => .rejected .reservedCode
  | .eraseFailed, _ => .rejected (.notACodeField .eraseFailed)
  | .programEnd, _ => .rejected (.notACodeField .programEnd)
  | .programStart, false => .rejected (.wrongKind .programStart)
  | .lastFrame, true => .rejected (.wrongKind .lastFrame)
  | .crcSucceeded, true => .rejected (.wrongKind .crcSucceeded)
  | .crcFailed, true => .rejected (.wrongKind .crcFailed)
  | .loadNewProgram, true => .rejected (.wrongKind .loadNewProgram)

/-- `hdr[19]` is the kind, `hdr[18:8]` the channel, `hdr[7:0]` the code (R71). -/
def decodeWord (h : BitVec 20) (rest : List Byte) : Decoded :=
  let channel := h.extractLsb' 8 11
  let code := h.extractLsb' 0 8
  if channel = channelId .crcAck then .rejected .channelNeverSent
  else if channel ≠ channelId .update then .rejected (.noSuchChannel channel)
  else
    match codeOfByte code with
    | none => .rejected (.unlistedCode code)
    | some c => messageOf (h.getLsbD 19) c rest

/-- Decoding bytes: the header word lies in three bytes, least significant byte first, its top four bits zero
(log 8); what follows is left over (the payload "follows as separate bytes"). Total on any bytes. -/
def decodeHeader : List Byte → Decoded
  | b0 :: b1 :: b2 :: rest =>
    if b2.extractLsb' 4 4 ≠ 0 then .rejected .highBitsSet
    else decodeWord (b2.extractLsb' 0 4 ++ b1 ++ b0) rest
  | [] => .rejected .tooShort
  | [_] => .rejected .tooShort
  | [_, _] => .rejected .tooShort

/-! ## Encoding a header word -/

/-- `hdr = kind ++ channel ++ code` (R71). -/
def headerWord (kind : Bool) (ch : Channel) (c : CommandCode) : BitVec 20 :=
  BitVec.ofBool kind ++ channelId ch ++ codeByte c

/-- The header word of a TX message (R96 to R102); no other row has one (R71, R103, R104, log 9). -/
def encodeHeader : Instr → Option (BitVec 20)
  | .msgProgramStart => some (headerWord true .update .programStart)
  | .msgWriteFrame => some (headerWord false .update .writeToFlash)
  | .msgLastFrameMark => some (headerWord false .update .lastFrame)
  | .msgCrcChallenge => some (headerWord true .update .writeToFlash)
  | .msgCrcOk => some (headerWord false .update .crcSucceeded)
  | .msgCrcFail => some (headerWord false .update .crcFailed)
  | .msgProgramEnd => some (headerWord false .update .loadNewProgram)
  | .rspStartStatus _ => none
  | .rspCrcAck _ => none
  | .crcUpdate _ _ => none
  | .crcBitstep _ => none
  | .crcClear => none
  | .crcFold8 _ _ => none
  | .crcSeq _ _ => none
  | .byteAddr _ _ => none
  | .totalFrames _ => none
  | .isLastFrame _ _ => none
  | .isPageBoundary _ => none
  | .frameAt _ => none
  | .curIndex => none
  | .classify => none
  | .start _ => none
  | .startBusy _ => none
  | .eraseResp _ => none
  | .eraseTmo => none
  | .frame => none
  | .frameCancel => none
  | .crcResp _ => none
  | .crcTmo => none
  | .pageAccept => none
  | .pageReject => none
  | .complete => none
  | .cancel => none
  | .reset => none

/-- A header word in three bytes, least significant byte first (log 8). -/
def headerBytes (h : BitVec 20) : List Byte :=
  [h.extractLsb' 0 8, h.extractLsb' 8 8, (0 : BitVec 4) ++ h.extractLsb' 16 4]

/-- The bytes of an instruction that has a header word. -/
def encode (i : Instr) : Option (List Byte) := (encodeHeader i).map headerBytes

/-- The header word of an emitted transport operation; `Connect` and `Close` have none (R70, R71, R80). -/
def opHeader : TransportOp → Option (BitVec 20)
  | .connect => none
  | .close => none
  | .send ch c _ => some (headerWord false ch c)
  | .request ch c _ _ _ => some (headerWord true ch c)

/-! ## Selecting a response format and a rule -/

/-- Which of the two RX formats a response payload has: decided by the state, "not by the payload" (R72). In every
other state the environment has no move that delivers one (R81). -/
def selectResponse (st : ProtoState) (r : List Byte) : Option Instr :=
  match st with
  | .erasing => some (.rspStartStatus r)
  | .awaitingPageCrc => some (.rspCrcAck r)
  | .idle => none
  | .transferring => none
  | .pageAccepted => none
  | .pageRejected => none
  | .completing => none
  | .done => none
  | .aborted => none

/-- The block's own step in a state (column "internal" of R150). -/
def selectInternal (st : ProtoState) (cancelReq : Bool) : Option Instr :=
  match st with
  | .transferring => some (if cancelReq then .frameCancel else .frame)
  | .pageAccepted => some .pageAccept
  | .pageRejected => some .pageReject
  | .completing => some .complete
  | .idle => none
  | .erasing => none
  | .awaitingPageCrc => none
  | .done => none
  | .aborted => none

/-- The rule that a transport result fires: `forStart` in `Erasing`, `forCrc` in `AwaitingPageCrc`, none in any
other state (R150, R81). -/
def selectResult (st : ProtoState) (forStart forCrc : Instr) : Option Instr :=
  match st with
  | .erasing => some forStart
  | .awaitingPageCrc => some forCrc
  | .idle => none
  | .transferring => none
  | .pageAccepted => none
  | .pageRejected => none
  | .completing => none
  | .done => none
  | .aborted => none

/-- The table of rule R150: which rule a state and an event select; `none` is its dash. -/
def selectRule (st : ProtoState) (cancelReq : Bool) (e : Event) : Option Instr :=
  match e with
  | .internal => selectInternal st cancelReq
  | .start len => some (if st = .idle then .start len else .startBusy len)
  | .cancel => some .cancel
  | .reset => some .reset
  | .rsp r => selectResult st (.eraseResp r) (.crcResp r)
  | .tmo => selectResult st .eraseTmo .crcTmo

/-- The event that a rule of the state machine answers; the messages and the pure operations answer none. -/
def eventOf : Instr → Option Event
  | .start len => some (.start len)
  | .startBusy len => some (.start len)
  | .eraseResp r => some (.rsp r)
  | .eraseTmo => some .tmo
  | .frame => some .internal
  | .frameCancel => some .internal
  | .crcResp r => some (.rsp r)
  | .crcTmo => some .tmo
  | .pageAccept => some .internal
  | .pageReject => some .internal
  | .complete => some .internal
  | .cancel => some .cancel
  | .reset => some .reset
  | .msgProgramStart => none
  | .msgWriteFrame => none
  | .msgLastFrameMark => none
  | .msgCrcChallenge => none
  | .msgCrcOk => none
  | .msgCrcFail => none
  | .msgProgramEnd => none
  | .rspStartStatus _ => none
  | .rspCrcAck _ => none
  | .crcUpdate _ _ => none
  | .crcBitstep _ => none
  | .crcClear => none
  | .crcFold8 _ _ => none
  | .crcSeq _ _ => none
  | .byteAddr _ _ => none
  | .totalFrames _ => none
  | .isLastFrame _ _ => none
  | .isPageBoundary _ => none
  | .frameAt _ => none
  | .curIndex => none
  | .classify => none

/-! ## The status view's numbers -/

/-- The encoding of `state` (R21), seen only through the status view. -/
def stateNumber : ProtoState → BitVec 4
  | .idle => 0
  | .erasing => 1
  | .transferring => 2
  | .awaitingPageCrc => 3
  | .pageAccepted => 4
  | .pageRejected => 5
  | .completing => 6
  | .done => 7
  | .aborted => 8

/-- The encoding of `error` (R26, R190). -/
def errorNumber : ErrorKind → BitVec 4
  | .none => 0
  | .eraseFailed => 1
  | .transportTimeout => 2
  | .malformedResponse => 3
  | .cancelled => 4
  | .imageNotFrameAligned => 5
  | .imageEmpty => 6
  | .outOfRange => 7

/-! ## The opcode table's words -/

/-- The low `nbits` bits of `w` in bytes, least significant byte first, as many as they need and never fewer than
the three of a header word. -/
def tableBytes (nbits w : Nat) : List Byte :=
  (List.range (max 3 ((nbits + 7) / 8))).map fun k => BitVec.ofNat 8 (w % 2 ^ nbits / 2 ^ (8 * k))

/-- The instruction the decoder reads from a word of the opcode table. -/
def decodeTableWord (nbits w : Nat) : Option Instr :=
  match decodeHeader (tableBytes nbits w) with
  | .instr i _ => some i
  | .rejected _ => none

end Sys2Proof
end

