-- ==== Sys2Proof/Machine/State.lean ====
section
/-! DEFINITION. The state: the eight registers of spec/10_state.md R20, and as plain data beside them what the rules
read or write outside the registers (the image, what the environment delivers, the output trace, the parameters);
the reasons a step can stop; and the state after reset (R35). -/

namespace Sys2Proof.Machine

/-- The image space (R50): bytes at offsets, in the one canonical form `Memory.wf` of Machine/Ops.lean. An offset not
listed holds no value. -/
abbrev Memory := List Host.Cell

/-- What a pure operation puts at its outputs (log 6): the engine's `acc_out` (R119), the chunker's results (R131
to R137). The model's own type: R20 gives the block no register for a result. -/
inductive OpResult where
  | none
  | crc (v : Crc)
  | offset (a : Nat)
  | count (n : Nat)
  | truth (b : Bool)
  | frame (f : Frame)
  | cls (c : FrameClass)
  deriving DecidableEq, Repr

/-- One row of the operation table to run by itself at the next step (log 7): the bytes of a header word, or an
operation. No agent of the spec sets it. -/
inductive Probe where
  | word (bytes : List Byte)
  | op (i : Instr)
  deriving DecidableEq, Repr

end Sys2Proof.Machine

namespace Sys2Proof.Machine

/-- The whole state. The registers are the eight of R20. -/
structure State where
  /-- `state` (R21). -/
  state : ProtoState
  /-- `committed_frame_index`, IDX_W bits (R22; a natural, log 2). -/
  committedFrameIndex : Nat
  /-- `frame_in_page`, 0 .. 249 (R23; a bounded index, U12, log 3). -/
  frameInPage : Fin 250
  /-- `crc_accumulator` (R24). -/
  crcAccumulator : Crc
  /-- `image_len`, ADDR_W bits (R25; a natural, log 2). -/
  imageLen : Nat
  /-- `error` (R26). -/
  error : ErrorKind
  /-- `tp_held` (R27). -/
  tpHeld : Bool
  /-- `cancel_req` (R28). -/
  cancelReq : Bool
  /-- The firmware image behind the read port (R50). No rule writes it (R52, R61). -/
  image : Memory
  /-- What reaches the block at its coming steps, oldest first (R9, R202, R203, log 4). -/
  inputs : List Event
  /-- The output trace, oldest operation first (R7, R58, log 5). -/
  trace : List TransportOp
  /-- The open parameters of R6 (log 1). No rule writes them (R33). -/
  params : Params
  /-- The outputs of the pure operations; the model's own field (log 6). -/
  opResult : OpResult
  /-- A row to run by itself; the model's own field (log 7). -/
  probe : Option Probe
  deriving DecidableEq, Repr

/-- Why nothing can move: the spec's `stuck` (no step). Each is raised by the step itself, never by an instruction,
and only when no event is left to deliver and the block has no step of its own. Safe: the model stops where the
hardware stands still. -/
inductive Fault where
  /-- `Idle` with no host command to come (R21, R150). Raised by fetching. Safe. -/
  | awaitingCommand
  /-- `Erasing` or `AwaitingPageCrc` with no transport result to come: blocked, a hang (R205, U17). Raised by
  fetching. Safe. -/
  | awaitingResult
  /-- `Done` or `Aborted` with no host command to come: the run is over (R176). Raised by fetching. Safe. -/
  | runOver
  deriving DecidableEq, Repr

/-- Why a step has no meaning. -/
inductive Refusal where
  /-- An instruction without a meaning; no arm of `exec` answers it. Safe. -/
  | notModelled (mnemonic : String)
  /-- A rule run in a state that does not enable it (a dash of R150). Raised by the meanings of the state machine's
  rules when run by themselves; selection never picks such a rule. Safe. -/
  | notEnabled
  /-- A transport result in a state with no request outstanding (R81, U8 `refuse`). Raised by fetching and by
  ERASE_RESP, ERASE_TMO, CRC_RESP, CRC_TMO, RSP.START_STATUS and RSP.CRC_ACK. Safe. -/
  | noRequestOutstanding
  /-- RESET while the transport is held (R221, U7 `refuse`). Raised by RESET. Safe. -/
  | resetWhileHeld
  /-- A read inside `image_len` of an offset the host loaded no byte at (R50, R224 item 3). Raised by FRAME,
  FRAME_AT, MSG.WRITE_FRAME and MSG.CRC_CHALLENGE. Safe. -/
  | imageByteAbsent
  /-- An operand that cannot be constructed: a response over 8 bytes (U14), a length over ADDR_W bits (R151).
  Raised by fetching. Safe. -/
  | illFormed
  /-- Bytes that are no header word of the block (R71, R106). Raised by fetching. Safe. -/
  | undecodable (e : DecodeError)
  deriving DecidableEq, Repr

/-- The machine right after reset: the registers as rule R35 says; no image loaded, nothing delivered, nothing
emitted (log 10, log 4, log 5); the parameters are the opaque ones of the hardware at hand (log 1). -/
def State.reset : State where
  state := .idle
  committedFrameIndex := 0
  frameInPage := 0
  crcAccumulator := 0
  imageLen := 0
  error := .none
  tpHeld := false
  cancelReq := false
  image := []
  inputs := []
  trace := []
  params := Config.params
  opResult := .none
  probe := none

end Sys2Proof.Machine
end

