-- ==== Sys2Proof/Machine/Ops.lean ====
section
/-! DEFINITION. The named operations over the image, the output trace and the registers: the image read port
(spec/20_memory.md R50), `emit` (R7), the abort entry (spec/60_exceptions.md R200), the register writes several rules
share, and the CRC engine (spec/40_crc_engine.md). -/

namespace Sys2Proof.Machine

/-! ## The image space -/

/-- The canonical form: offsets strictly rising. An unlisted offset has no value, so no entry equals what an unlisted
offset reads as. -/
abbrev Memory.wf (m : Memory) : Prop := m.Pairwise fun x y => x.1 < y.1

/-- The byte at an offset, if one is there. -/
def Memory.read : Memory → Nat → Option Byte
  | [], _ => none
  | (k, v) :: m, a => if k = a then some v else Memory.read m a

/-- One byte stored at an offset. The block never does this (R7: "there is no `MemWrite`"): it is how the outside
loads an image. -/
def Memory.write : Memory → Nat → Byte → Memory
  | [], a, b => [(a, b)]
  | (k, v) :: m, a, b =>
    if a < k then (a, b) :: (k, v) :: m
    else if a = k then (a, b) :: m
    else (k, v) :: Memory.write m a b

/-- The bytes of an image laid out from an offset upwards. -/
def Memory.ofBytes : Nat → List Byte → Memory
  | _, [] => []
  | a, b :: bs => (a, b) :: Memory.ofBytes (a + 1) bs

/-- The `n` bytes from offset `a` up, if all are there. -/
def Memory.slice (m : Memory) : Nat → Nat → Option (List Byte)
  | _, 0 => some []
  | a, n + 1 =>
    match Memory.read m a, Memory.slice m (a + 1) n with
    | some b, some bs => some (b :: bs)
    | _, _ => none

/-- An image loaded behind the read port, its first byte at offset 0 (R224 item 3): what the outside does before
`START`. -/
def loadImage (bytes : List Byte) (s : State) : State := { s with image := Memory.ofBytes 0 bytes }

/-- `ImgRead(a)` (R50): defined for `a < image_len`. -/
def imgRead (s : State) (a : Nat) : Option Byte := if a < s.imageLen then Memory.read s.image a else none

/-! ## The output trace, the cursor and the abort entry -/

/-- `emit op`: appends one transport operation to the output trace (R7). -/
def emit (op : TransportOp) (s : State) : State := { s with trace := s.trace ++ [op] }

/-- The cursor's three registers written to zero: "all fields zeroed" (R36). -/
def zeroCursor (s : State) : State :=
  { s with committedFrameIndex := 0, frameInPage := 0, crcAccumulator := 0 }

/-- CRC.CLEAR (R113). -/
def clearCrc (s : State) : State := { s with crcAccumulator := 0 }

/-- A page's local state back at its first frame (R162, R164). -/
def restartPage (s : State) : State := clearCrc { s with frameInPage := 0 }

/-- The transport given up: `Close` emitted if the transport is held, and `tp_held` cleared. -/
def release (s : State) : State :=
  { s with trace := if s.tpHeld then s.trace ++ [.close] else s.trace, tpHeld := false }

/-- The abort entry (R200): what `raise k` does, and all it does (R201). -/
def abortEntry (k : ErrorKind) (s : State) : State :=
  { release { s with error := k } with state := .aborted }

/-! ## The CRC engine -/

/-- CRC.BITSTEP (R111). -/
def crcBitstep (a : Crc) : Crc := if a.getLsbD 15 then (a <<< 1) ^^^ 0x1021#16 else a <<< 1

/-- `n` applications of CRC.BITSTEP. -/
def crcBitsteps : Nat → Crc → Crc
  | 0, a => a
  | n + 1, a => crcBitsteps n (crcBitstep a)

/-- CRC.UPDATE (R110): the byte into bits 15:8, then exactly eight bit steps. -/
def crcUpdate (acc : Crc) (byte : Byte) : Crc := crcBitsteps 8 (acc ^^^ (byte.setWidth 16 <<< 8))

/-- CRC.SEQ (R115): the left fold of CRC.UPDATE. -/
def crcSeq (acc : Crc) (bytes : List Byte) : Crc := bytes.foldl crcUpdate acc

/-- The bytes of a frame, offset 0 first (R53, R85). -/
def frameBytes (f : Frame) : List Byte := [f.b0, f.b1, f.b2, f.b3, f.b4, f.b5, f.b6, f.b7]

/-- CRC.FOLD8 (R114): byte `f[0]` first. -/
def crcFold8 (acc : Crc) (f : Frame) : Crc := crcSeq acc (frameBytes f)

end Sys2Proof.Machine
end

