-- ==== Sys2Proof/Machine/Flags.lean ====
section
/-! DEFINITION. The six combinational predicates of spec/10_state.md R31, the block's only condition codes; none is
stored. Their functions are the chunker's (spec/41_chunker.md R132 to R137). -/

namespace Sys2Proof.Machine

/-- TOTAL_FRAMES (R132): floor division. -/
def totalFrames (imageLen : Nat) : Nat := imageLen / 8

/-- CUR_INDEX (R136). -/
def curIndex (s : State) : Nat := s.committedFrameIndex + s.frameInPage.val

/-- IS_LAST_FRAME (R133), written so that no frame is last when there is none. -/
def isLastFrame (index imageLen : Nat) : Bool := index + 1 == totalFrames imageLen

/-- IS_PAGE_BOUNDARY (R134). -/
def isPageBoundary (frameInPage : Nat) : Bool := frameInPage == 249

/-- `is_last` of the current frame (R31). -/
def isLast (s : State) : Bool := isLastFrame (curIndex s) s.imageLen

/-- `is_boundary` of the current frame (R31). -/
def isBoundary (s : State) : Bool := isPageBoundary s.frameInPage.val

/-- `all_consumed` for a committed index (R31; PAGE_ACCEPT evaluates it on the new value). -/
def allConsumed (committed imageLen : Nat) : Bool := committed == totalFrames imageLen

/-- `crc_match` (R31, R160): all 16 bits. -/
def crcMatch (devCrc : Crc) (s : State) : Bool := devCrc == s.crcAccumulator

/-- CLASSIFY (R137). -/
def classify (s : State) : FrameClass :=
  if isLast s then .challenge true
  else if isBoundary s then .challenge false
  else .midPage

end Sys2Proof.Machine
end

