-- ==== Sys2Proof/Machine/Operands.lean ====
section
/-! DEFINITION. How operands are formed and taken apart: image addresses and frames (spec/41_chunker.md R131, R135),
the payloads of the messages (spec/30_encoding.md R85, R86, R96 to R102) and the decoding of the two responses (R90
to R94). -/

namespace Sys2Proof.Machine

/-! ## Frames -/

/-- BYTE_ADDR (R131): `index ++ k[2:0]`. It fits ADDR_W bits where ADDR_W is at least 3; below that the spec gives the
operation no index width (log 32). -/
def byteAddr (index k : Nat) : Nat := 8 * index + k

/-- What FRAME_AT answers: a frame, the error `OutOfRange`, or no meaning because the host loaded no byte there. -/
inductive FrameRead where
  | ok (f : Frame)
  | outOfRange
  | absent
  deriving DecidableEq, Repr

/-- The eight `ImgRead`s of a frame, ascending (R55). -/
def readFrame (s : State) (index : Nat) : Option Frame := do
  let b0 ← imgRead s (byteAddr index 0)
  let b1 ← imgRead s (byteAddr index 1)
  let b2 ← imgRead s (byteAddr index 2)
  let b3 ← imgRead s (byteAddr index 3)
  let b4 ← imgRead s (byteAddr index 4)
  let b5 ← imgRead s (byteAddr index 5)
  let b6 ← imgRead s (byteAddr index 6)
  let b7 ← imgRead s (byteAddr index 7)
  return { b0, b1, b2, b3, b4, b5, b6, b7 }

/-- FRAME_AT (R135): the bound is compared on naturals, before any read. -/
def frameAt (s : State) (index : Nat) : FrameRead :=
  if 8 * index + 8 > s.imageLen then .outOfRange
  else
    match readFrame s index with
    | some f => .ok f
    | none => .absent

/-- A rule that works on the frame at an index: FRAME_AT's `OutOfRange` is raised (R135, R195), and nothing else of
the rule happens (R201). -/
def withFrame (index : Nat) (s : State) (k : Frame → State) : Host.Outcome State Fault Refusal :=
  match frameAt s index with
  | .ok f => .next (k f)
  | .outOfRange => .next (abortEntry .outOfRange s)
  | .absent => .refused .imageByteAbsent

/-- `frame_in_page + 1` (R155); the mid-page branch never meets 249 (R139). -/
def nextFrameInPage (f : Fin 250) : Fin 250 := f + 1

/-! ## Messages -/

/-- `rep(v, n)` (R7). -/
def rep (v : Byte) (n : Nat) : List Byte := List.replicate n v

/-- A marker length in 3..7 (R86). -/
def markerLen (n : MarkerExtra) : Nat := 3 + n.val

/-- N_LAST (R5). -/
def lastMarkLen : Nat := 4

/-- START_RESP_CHANNEL, decided 0x600 (R6, D12). -/
def startRespChannel : Channel := .update

/-- MSG.PROGRAM_START (R96). -/
def programStartMsg (p : Params) : TransportOp :=
  .request .update .programStart p.startTimeout (rep (codeByte .programStart) (markerLen p.startExtra)) startRespChannel

/-- MSG.WRITE_FRAME (R97). -/
def writeFrameMsg (f : Frame) : TransportOp := .send .update .writeToFlash (frameBytes f)

/-- MSG.LAST_FRAME_MARK (R98). -/
def lastFrameMarkMsg : TransportOp := .send .update .lastFrame (rep (codeByte .lastFrame) lastMarkLen)

/-- MSG.CRC_CHALLENGE (R99). -/
def crcChallengeMsg (p : Params) (f : Frame) : TransportOp :=
  .request .update .writeToFlash p.crcTimeout (frameBytes f) .crcAck

/-- MSG.CRC_OK (R100). -/
def crcOkMsg (p : Params) : TransportOp :=
  .send .update .crcSucceeded (rep (codeByte .crcSucceeded) (markerLen p.okExtra))

/-- MSG.CRC_FAIL (R101). -/
def crcFailMsg (p : Params) : TransportOp :=
  .send .update .crcFailed (rep (codeByte .crcFailed) (markerLen p.failExtra))

/-- MSG.PROGRAM_END (R102): the code is LOAD_NEW_PROGRAM, the repeated byte PROGRAM_END. -/
def programEndMsg (p : Params) : TransportOp :=
  .send .update .loadNewProgram (rep (codeByte .programEnd) (markerLen p.endExtra))

/-! ## Responses -/

/-- `hexval` (R93). -/
def hexval (c : Byte) : Option Nat :=
  if 0x30 ≤ c.toNat ∧ c.toNat ≤ 0x39 then some (c.toNat - 0x30)
  else if 0x41 ≤ c.toNat ∧ c.toNat ≤ 0x46 then some (c.toNat - 0x41 + 10)
  else if 0x61 ≤ c.toNat ∧ c.toNat ≤ 0x66 then some (c.toNat - 0x61 + 10)
  else none

/-- BYTE_DECODE_REF (R93). -/
def byteDecodeRef (a b : Byte) : Option Byte :=
  match hexval a, hexval b with
  | some x, some y => some (BitVec.ofNat 8 (16 * x + y))
  | _, _ => none

/-- The entry of a table for a pair, the first that is there. -/
def tableDecode : List ((Byte × Byte) × Byte) → Byte → Byte → Option Byte
  | [], _, _ => none
  | (k, v) :: rest, a, b => if k = (a, b) then some v else tableDecode rest a b

/-- BYTE_DECODE (R92): a total function of two bytes. -/
def byteDecode (d : ByteDecode) (a b : Byte) : Option Byte :=
  match d with
  | .asciiHex => byteDecodeRef a b
  | .table entries => tableDecode entries a b

/-- What a start response says (R90). -/
inductive StartStatus where
  | malformed
  | eraseFailed
  | proceed
  deriving DecidableEq, Repr

/-- The start response's decoding (R90, R103): the length first, then byte 0; bytes 1 to 7 are ignored (R94). -/
def startStatus : List Byte → StartStatus
  | [] => .malformed
  | b :: _ => if b = codeByte .eraseFailed then .eraseFailed else .proceed

/-- The CRC response's decoding (R91, R92, R104): `none` where it is malformed. Offsets 0 and 1 make the high byte,
3 and 4 the low one; offset 2 and offsets 5 to 7 are ignored (R94). -/
def decodeCrcAck (d : ByteDecode) : List Byte → Option Crc
  | r0 :: r1 :: _ :: r3 :: r4 :: _ =>
    match byteDecode d r0 r1, byteDecode d r3 r4 with
    | some hi, some lo => some (hi ++ lo)
    | _, _ => none
  | _ => none

/-- A start response accepted in `Erasing` (R153, R103). -/
def acceptStartStatus (r : List Byte) (s : State) : State :=
  match startStatus r with
  | .malformed => abortEntry .malformedResponse s
  | .eraseFailed => abortEntry .eraseFailed s
  | .proceed => { zeroCursor s with state := .transferring }

/-- A CRC response accepted in `AwaitingPageCrc`: the retry arbiter (R160, R104). -/
def acceptCrcAck (r : List Byte) (s : State) : State :=
  match decodeCrcAck s.params.byteDecode r with
  | none => abortEntry .malformedResponse s
  | some devCrc => { s with state := if crcMatch devCrc s then .pageAccepted else .pageRejected }

end Sys2Proof.Machine
end

