-- ==== Sys2Proof/Machine/CrcEngine.lean ====
section
/-! DEFINITION. The operations of the CRC engine run by themselves (spec/40_crc_engine.md R110 to R115). The engine is
a pure function whose result stands at its output (R119, log 6); only CRC.CLEAR writes a register (R113). -/

namespace Sys2Proof.Machine

/-- A result put at the outputs; no register is written. -/
def answer (v : OpResult) (s : State) : Host.Outcome State Fault Refusal := .next { s with opResult := v }

/-- CRC.UPDATE (R110). -/
def execCrcUpdate (acc : Crc) (byte : Byte) (s : State) : Host.Outcome State Fault Refusal :=
  answer (.crc (crcUpdate acc byte)) s

/-- CRC.BITSTEP (R111). -/
def execCrcBitstep (acc : Crc) (s : State) : Host.Outcome State Fault Refusal := answer (.crc (crcBitstep acc)) s

/-- CRC.CLEAR (R113). -/
def execCrcClear (s : State) : Host.Outcome State Fault Refusal := .next (clearCrc s)

/-- CRC.FOLD8 (R114). -/
def execCrcFold8 (acc : Crc) (f : Frame) (s : State) : Host.Outcome State Fault Refusal :=
  answer (.crc (crcFold8 acc f)) s

/-- CRC.SEQ (R115). -/
def execCrcSeq (acc : Crc) (bytes : List Byte) (s : State) : Host.Outcome State Fault Refusal :=
  answer (.crc (crcSeq acc bytes)) s

end Sys2Proof.Machine
end

