-- ==== Sys2Proof/Machine/Chunker.lean ====
section
/-! DEFINITION. The operations of the frame/page chunker run by themselves (spec/41_chunker.md R131 to R137): pure
functions of their operands, `image_len` and the cursor, whose result stands at the outputs (log 6). -/

namespace Sys2Proof.Machine

/-- BYTE_ADDR (R131). -/
def execByteAddr (index : Nat) (k : BitVec 3) (s : State) : Host.Outcome State Fault Refusal :=
  answer (.offset (byteAddr index k.toNat)) s

/-- TOTAL_FRAMES (R132). -/
def execTotalFrames (imageLen : Nat) (s : State) : Host.Outcome State Fault Refusal :=
  answer (.count (totalFrames imageLen)) s

/-- IS_LAST_FRAME (R133). -/
def execIsLastFrame (index imageLen : Nat) (s : State) : Host.Outcome State Fault Refusal :=
  answer (.truth (isLastFrame index imageLen)) s

/-- IS_PAGE_BOUNDARY (R134). -/
def execIsPageBoundary (frameInPage : BitVec 8) (s : State) : Host.Outcome State Fault Refusal :=
  answer (.truth (isPageBoundary frameInPage.toNat)) s

/-- FRAME_AT (R135), with `image_len` from its register; `OutOfRange` takes the abort entry (R195, log 18). -/
def execFrameAt (index : Nat) (s : State) : Host.Outcome State Fault Refusal :=
  withFrame index s fun f => { s with opResult := .frame f }

/-- CUR_INDEX (R136). -/
def execCurIndex (s : State) : Host.Outcome State Fault Refusal := answer (.count (curIndex s)) s

/-- CLASSIFY (R137) of the current frame. -/
def execClassify (s : State) : Host.Outcome State Fault Refusal := answer (.cls (classify s)) s

end Sys2Proof.Machine
end

