-- ==== Sys2Proof/Machine/HostPort.lean ====
section
/-! DEFINITION. The rest of the command port and the read-only status view (spec/10_state.md R32, R33; CANCEL, R168;
RESET, R220 and R221). -/

namespace Sys2Proof.Machine

/-- The states in which a `CANCEL` is recorded (R168). -/
def cancellable : ProtoState → Bool
  | .erasing => true
  | .transferring => true
  | .awaitingPageCrc => true
  | .pageAccepted => true
  | .pageRejected => true
  | .completing => true
  | .idle => false
  | .done => false
  | .aborted => false

/-- CANCEL (R168). -/
def execCancel (s : State) : Host.Outcome State Fault Refusal :=
  .next (if cancellable s.state then { s with cancelReq := true } else s)

/-- Every register at the value of rule R35 (R220). The image, the inputs, the trace and the parameters are no
registers (log 19). -/
def resetRegisters (s : State) : State :=
  { zeroCursor s with state := .idle, imageLen := 0, error := .none, tpHeld := false, cancelReq := false }

/-- RESET (R220); while the transport is held it has no meaning (R221). -/
def execReset (s : State) : Host.Outcome State Fault Refusal :=
  if s.tpHeld then .refused .resetWhileHeld else .next (resetRegisters s)

/-! ## The status view -/

/-- FLAGS: bit 0 is `tp_held`, bit 1 is `cancel_req` (R32). -/
def statusFlags (s : State) : BitVec 2 := BitVec.ofBool s.cancelReq ++ BitVec.ofBool s.tpHeld

/-- The status view numbered `n` (R32): its content, zero-extended; `none` for a number that names no view. It is a
function of the state: "a read has no side effect; reads are allowed in every state". -/
def statusView (s : State) : Nat → Option Nat
  | 0 => some (stateNumber s.state).toNat
  | 1 => some (errorNumber s.error).toNat
  | 2 => some s.committedFrameIndex
  | 3 => some s.frameInPage.val
  | 4 => some s.crcAccumulator.toNat
  | 5 => some s.imageLen
  | 6 => some (statusFlags s).toNat
  | _ + 7 => none

/-- The width of the status view numbered `n` (R32). -/
def statusWidth (p : Params) : Nat → Option Nat
  | 0 => some 4
  | 1 => some 4
  | 2 => some (idxW p)
  | 3 => some 8
  | 4 => some 16
  | 5 => some p.addrW
  | 6 => some 2
  | _ + 7 => none

end Sys2Proof.Machine
end

