-- ==== Sys2Proof/Machine/Messages.lean ====
section
/-! DEFINITION. The protocol messages (spec/30_encoding.md R96 to R104): the seven the block emits and the two
responses it accepts, each run by itself. A TX message emits its transport operation and writes no register
(log 17); an RX response is accepted as its state's rule accepts it (log 16). -/

namespace Sys2Proof.Machine

/-- MSG.PROGRAM_START (R96). -/
def execMsgProgramStart (s : State) : Host.Outcome State Fault Refusal := .next (emit (programStartMsg s.params) s)

/-- MSG.WRITE_FRAME (R97) with the current frame (R85). -/
def execMsgWriteFrame (s : State) : Host.Outcome State Fault Refusal :=
  withFrame (curIndex s) s fun f => emit (writeFrameMsg f) s

/-- MSG.LAST_FRAME_MARK (R98). -/
def execMsgLastFrameMark (s : State) : Host.Outcome State Fault Refusal := .next (emit lastFrameMarkMsg s)

/-- MSG.CRC_CHALLENGE (R99) with the current frame (R85). -/
def execMsgCrcChallenge (s : State) : Host.Outcome State Fault Refusal :=
  withFrame (curIndex s) s fun f => emit (crcChallengeMsg s.params f) s

/-- MSG.CRC_OK (R100). -/
def execMsgCrcOk (s : State) : Host.Outcome State Fault Refusal := .next (emit (crcOkMsg s.params) s)

/-- MSG.CRC_FAIL (R101). -/
def execMsgCrcFail (s : State) : Host.Outcome State Fault Refusal := .next (emit (crcFailMsg s.params) s)

/-- MSG.PROGRAM_END (R102). -/
def execMsgProgramEnd (s : State) : Host.Outcome State Fault Refusal := .next (emit (programEndMsg s.params) s)

/-- RSP.START_STATUS (R103): accepted only in `Erasing`. -/
def execRspStartStatus (r : List Byte) (s : State) : Host.Outcome State Fault Refusal :=
  if s.state = .erasing then .next (acceptStartStatus r s) else .refused .noRequestOutstanding

/-- RSP.CRC_ACK (R104): accepted only in `AwaitingPageCrc`. -/
def execRspCrcAck (r : List Byte) (s : State) : Host.Outcome State Fault Refusal :=
  if s.state = .awaitingPageCrc then .next (acceptCrcAck r s) else .refused .noRequestOutstanding

end Sys2Proof.Machine
end

