-- ==== Sys2Proof/Machine/Transfer.lean ====
section
/-! DEFINITION. The rules of the transfer state machine (spec/42_state_machine.md R151 to R166). A rule has its effect
in the state that enables it (R150); run by itself anywhere else it is refused (log 15). -/

namespace Sys2Proof.Machine

/-- The registers of an accepted `START(len)` (R151). -/
def beginTransfer (len : Nat) (s : State) : State :=
  { zeroCursor s with imageLen := len, error := .none, cancelReq := false, tpHeld := true, state := .erasing }

/-- START (R151). The alignment test comes first (R202). Outside `Idle` it has no effect (R152, R224 item 7, U19). -/
def execStart (len : Nat) (s : State) : Host.Outcome State Fault Refusal :=
  if s.state ≠ .idle then .next s
  else if len % 8 ≠ 0 then .next { s with error := .imageNotFrameAligned }
  else if totalFrames len = 0 then .next { s with error := .imageEmpty }
  else .next (emit (programStartMsg s.params) (emit .connect (beginTransfer len s)))

/-- START.BUSY (R152): no effect, not even on `error`. -/
def execStartBusy (_len : Nat) (s : State) : Host.Outcome State Fault Refusal :=
  if s.state ≠ .idle then .next s else .refused .notEnabled

/-- ERASE_RESP (R153). -/
def execEraseResp (r : List Byte) (s : State) : Host.Outcome State Fault Refusal :=
  if s.state = .erasing then .next (acceptStartStatus r s) else .refused .noRequestOutstanding

/-- ERASE_TMO (R154). -/
def execEraseTmo (s : State) : Host.Outcome State Fault Refusal :=
  if s.state = .erasing then .next (abortEntry .transportTimeout s) else .refused .noRequestOutstanding

/-- The mid-page branch of FRAME, the frame already folded (R155). -/
def sendFrame (f : Frame) (s : State) : State :=
  { emit (writeFrameMsg f) s with frameInPage := nextFrameInPage s.frameInPage }

/-- The challenge branch of FRAME, the frame already folded (R155): the marker if and only if the frame is the
image's last (R98). -/
def sendChallenge (marker : Bool) (f : Frame) (s : State) : State :=
  { s with
    trace := s.trace ++ (if marker then [lastFrameMarkMsg] else []) ++ [crcChallengeMsg s.params f]
    state := .awaitingPageCrc }

/-- What FRAME does with the current frame (R155): fold it, then send it by its class (R137). -/
def processFrame (s : State) (f : Frame) : State :=
  let folded := { s with crcAccumulator := crcFold8 s.crcAccumulator f }
  match classify s with
  | .midPage => sendFrame f folded
  | .challenge marker => sendChallenge marker f folded

/-- FRAME (R155): enabled in `Transferring` with `cancel_req` 0. -/
def execFrame (s : State) : Host.Outcome State Fault Refusal :=
  if s.state = .transferring ∧ s.cancelReq = false then withFrame (curIndex s) s (processFrame s)
  else .refused .notEnabled

/-- FRAME.CANCEL (R156): enabled in `Transferring` with `cancel_req` 1. -/
def execFrameCancel (s : State) : Host.Outcome State Fault Refusal :=
  if s.state = .transferring ∧ s.cancelReq = true then .next (abortEntry .cancelled s) else .refused .notEnabled

/-- CRC_RESP (R160). -/
def execCrcResp (r : List Byte) (s : State) : Host.Outcome State Fault Refusal :=
  if s.state = .awaitingPageCrc then .next (acceptCrcAck r s) else .refused .noRequestOutstanding

/-- CRC_TMO (R161). -/
def execCrcTmo (s : State) : Host.Outcome State Fault Refusal :=
  if s.state = .awaitingPageCrc then .next (abortEntry .transportTimeout s) else .refused .noRequestOutstanding

/-- The committed index after the page in flight is accepted: the frames of the verified page are
`frame_in_page + 1` (R162, C1). -/
def committedAfter (s : State) : Nat := s.committedFrameIndex + s.frameInPage.val + 1

/-- PAGE_ACCEPT (R162). -/
def execPageAccept (s : State) : Host.Outcome State Fault Refusal :=
  if s.state = .pageAccepted then
    .next { restartPage (emit (crcOkMsg s.params) s) with
      committedFrameIndex := committedAfter s
      state := if allConsumed (committedAfter s) s.imageLen then .completing else .transferring }
  else .refused .notEnabled

/-- PAGE_REJECT (R164): the committed index stays, the page is sent again from its first frame. -/
def execPageReject (s : State) : Host.Outcome State Fault Refusal :=
  if s.state = .pageRejected then
    .next { restartPage (emit (crcFailMsg s.params) s) with state := .transferring }
  else .refused .notEnabled

/-- COMPLETE (R166): `Close` is emitted whatever `tp_held` holds, as the rule is written. -/
def execComplete (s : State) : Host.Outcome State Fault Refusal :=
  if s.state = .completing then
    .next { emit .close (emit (programEndMsg s.params) s) with tpHeld := false, state := .done }
  else .refused .notEnabled

end Sys2Proof.Machine
end

