-- ==== Sys2Proof/Machine/Dispatch.lean ====
section
/-! DEFINITION. One arm per constructor of `Instr`, each one call of that row's meaning. -/

namespace Sys2Proof.Machine

def exec (i : Instr) (s : State) : Host.Outcome State Fault Refusal :=
  match i with
  -- TX messages
  | .msgProgramStart => Sys2Proof.Machine.execMsgProgramStart s
  | .msgWriteFrame => Sys2Proof.Machine.execMsgWriteFrame s
  | .msgLastFrameMark => Sys2Proof.Machine.execMsgLastFrameMark s
  | .msgCrcChallenge => Sys2Proof.Machine.execMsgCrcChallenge s
  | .msgCrcOk => Sys2Proof.Machine.execMsgCrcOk s
  | .msgCrcFail => Sys2Proof.Machine.execMsgCrcFail s
  | .msgProgramEnd => Sys2Proof.Machine.execMsgProgramEnd s
  -- RX responses
  | .rspStartStatus r => Sys2Proof.Machine.execRspStartStatus r s
  | .rspCrcAck r => Sys2Proof.Machine.execRspCrcAck r s
  -- the CRC engine
  | .crcUpdate acc byte => Sys2Proof.Machine.execCrcUpdate acc byte s
  | .crcBitstep acc => Sys2Proof.Machine.execCrcBitstep acc s
  | .crcClear => Sys2Proof.Machine.execCrcClear s
  | .crcFold8 acc f => Sys2Proof.Machine.execCrcFold8 acc f s
  | .crcSeq acc bytes => Sys2Proof.Machine.execCrcSeq acc bytes s
  -- the chunker
  | .byteAddr index k => Sys2Proof.Machine.execByteAddr index k s
  | .totalFrames imageLen => Sys2Proof.Machine.execTotalFrames imageLen s
  | .isLastFrame index imageLen => Sys2Proof.Machine.execIsLastFrame index imageLen s
  | .isPageBoundary frameInPage => Sys2Proof.Machine.execIsPageBoundary frameInPage s
  | .frameAt index => Sys2Proof.Machine.execFrameAt index s
  | .curIndex => Sys2Proof.Machine.execCurIndex s
  | .classify => Sys2Proof.Machine.execClassify s
  -- the transfer state machine
  | .start len => Sys2Proof.Machine.execStart len s
  | .startBusy len => Sys2Proof.Machine.execStartBusy len s
  | .eraseResp r => Sys2Proof.Machine.execEraseResp r s
  | .eraseTmo => Sys2Proof.Machine.execEraseTmo s
  | .frame => Sys2Proof.Machine.execFrame s
  | .frameCancel => Sys2Proof.Machine.execFrameCancel s
  | .crcResp r => Sys2Proof.Machine.execCrcResp r s
  | .crcTmo => Sys2Proof.Machine.execCrcTmo s
  | .pageAccept => Sys2Proof.Machine.execPageAccept s
  | .pageReject => Sys2Proof.Machine.execPageReject s
  | .complete => Sys2Proof.Machine.execComplete s
  | .cancel => Sys2Proof.Machine.execCancel s
  | .reset => Sys2Proof.Machine.execReset s

end Sys2Proof.Machine
end

