-- ==== Sys2Proof/Machine/Fetch.lean ====
section
/-! DEFINITION. What the next step is (spec/42_state_machine.md R150, spec/60_exceptions.md R202, R203): the probe if
one stands there, else the next event of `inputs`, else the block's own step. The block has no program counter
(R30): this selection is its fetch. -/

namespace Sys2Proof.Machine

/-- What a step is about to do. -/
inductive Fetched where
  /-- Run this instruction in this state, what was fetched taken out of it. -/
  | run (i : Instr) (s : State)
  /-- The block's own turn, in a state that has no step of its own: the turn passes. -/
  | pass (s : State)
  /-- Nothing can move. -/
  | stuck (f : Fault)
  /-- The environment made a move that it does not have. -/
  | refuse (r : Refusal)
  deriving DecidableEq, Repr

/-- Why nothing can move in a state that waits (R150, R176, R205, U17). The four running states always have a step
of their own, so what is named for them is never answered. -/
def stuckFault : ProtoState → Fault
  | .idle => .awaitingCommand
  | .erasing => .awaitingResult
  | .awaitingPageCrc => .awaitingResult
  | .transferring => .runOver
  | .pageAccepted => .runOver
  | .pageRejected => .runOver
  | .completing => .runOver
  | .done => .runOver
  | .aborted => .runOver

/-- An instruction is run only if it is one of this hardware's (R72, R151, log 14). -/
def accept (i : Instr) (s : State) : Fetched := if wellFormed s.params i then .run i s else .refuse .illFormed

/-- The probe taken out and its row read (log 7). -/
def fetchProbe (p : Probe) (s : State) : Fetched :=
  match p with
  | .op i => accept i { s with probe := none }
  | .word bytes =>
    match decodeHeader bytes with
    | .instr i _ => accept i { s with probe := none }
    | .rejected e => .refuse (.undecodable e)

/-- An event delivered (R150). A transport result that no request waits for is no move of the environment (R81). -/
def deliver (e : Event) (s : State) : Fetched :=
  match selectRule s.state s.cancelReq e with
  | some i => accept i s
  | none => if e = .internal then .pass s else .refuse .noRequestOutstanding

/-- The next step: "consumes at most one input event" (R8). -/
def fetch (s : State) : Fetched :=
  match s.probe, s.inputs with
  | some p, _ => fetchProbe p s
  | none, e :: rest => deliver e { s with inputs := rest }
  | none, [] =>
    match selectInternal s.state s.cancelReq with
    | some i => accept i s
    | none => .stuck (stuckFault s.state)

/-- A row of the opcode table put where the next step takes it (log 7). -/
def placeWord (s : State) (nbits w : Nat) : State := { s with probe := some (.word (tableBytes nbits w)) }

end Sys2Proof.Machine
end

