-- ==== Sys2Proof/Machine/Step.lean ====
section
/-! DEFINITION. One step (spec/00_scope.md R8: one rule firing once), and how the host places one row of the opcode
table before it. -/

namespace Sys2Proof.Machine

/-- One step: fetch, then run what was fetched. -/
def step (s : State) : Host.Outcome State Fault Refusal :=
  match fetch s with
  | .run i s' => exec i s'
  | .pass s' => .next s'
  | .stuck f => .fault f
  | .refuse r => .refused r

/-- `s` with one word of the opcode table where `step` takes its next instruction (log 7). -/
def State.withFetchWord (s : State) (nbits w : Nat) : State := placeWord s nbits w

end Sys2Proof.Machine
end

