-- ==== Sys2Proof/Machine/Trace.lean ====
section
/-! DEFINITION. The textual trace notation (spec/30_encoding.md R108, R109): one event per line, numbers hexadecimal
without prefix, payload bytes in brackets. No rule of the machine reads it (log 27). -/

namespace Sys2Proof.Machine

/-- One hexadecimal digit, upper case. -/
def hexChar (n : Nat) : Char :=
  (['0', '1', '2', '3', '4', '5', '6', '7', '8', '9', 'A', 'B', 'C', 'D', 'E', 'F'][n]?).getD '0'

/-- A number in a fixed count of hexadecimal digits. -/
def hexDigits : Nat → Nat → List Char
  | 0, _ => []
  | d + 1, v => hexDigits d (v / 16) ++ [hexChar (v % 16)]

/-- Payload bytes in brackets, separated by single spaces. -/
def renderBytes (bs : List Byte) : List Char :=
  ['['] ++ List.intercalate [' '] (bs.map fun b => hexDigits 2 b.toNat) ++ [']']

/-- A channel identifier in three digits. -/
def renderChannel (c : Channel) : List Char := hexDigits 3 (channelId c).toNat

/-- The part that `SND` and `REQ` lines share. -/
def renderMessage (c : Channel) (code : CommandCode) (payload : List Byte) : List Char :=
  renderChannel c ++ [' '] ++ hexDigits 2 (codeByte code).toNat ++ [' '] ++ renderBytes payload

/-- The line of an emitted operation; the timeout is not written (R108). -/
def renderOp : TransportOp → List Char
  | .connect => ['C', 'O', 'N', 'N', 'E', 'C', 'T']
  | .close => ['C', 'L', 'O', 'S', 'E']
  | .send c code payload => ['S', 'N', 'D', ' '] ++ renderMessage c code payload
  | .request c code _ payload rc =>
    ['R', 'E', 'Q', ' '] ++ renderMessage c code payload ++ [' ', '-', '>', ' '] ++ renderChannel rc

/-- The line of an event that reaches the block; the block's own step has none. -/
def renderEvent : Event → Option (List Char)
  | .internal => none
  | .start len => some (['S', 'T', 'A', 'R', 'T', ' '] ++ Nat.toDigits 10 len ++ ['d'])
  | .cancel => some ['C', 'A', 'N', 'C', 'E', 'L']
  | .reset => some ['R', 'E', 'S', 'E', 'T']
  | .rsp r => some (['R', 'S', 'P', ' '] ++ renderBytes r)
  | .tmo => some ['T', 'M', 'O']

/-- The ASCII code of an upper-case hexadecimal digit. -/
def asciiDigit (n : BitVec 4) : Byte := if n.toNat < 10 then BitVec.ofNat 8 (0x30 + n.toNat) else BitVec.ofNat 8 (0x37 + n.toNat)

/-- The payload that `CRCRSP <hhhh>` stands for (R109). -/
def crcRspPayload (v : Crc) : List Byte :=
  [asciiDigit (v.extractLsb' 12 4), asciiDigit (v.extractLsb' 8 4), 0x20, asciiDigit (v.extractLsb' 4 4),
    asciiDigit (v.extractLsb' 0 4), 0x00, 0x00, 0x00]

/-- The operations that `WRITES i..j` stands for (R109): frames i to j in order, nothing if j < i. -/
def writesOps (s : State) (i j : Nat) : List TransportOp :=
  (List.range (j + 1 - i)).filterMap fun k => (readFrame s (i + k)).map writeFrameMsg

end Sys2Proof.Machine
end

