-- ==== Sys2Proof/Safety.lean ====
section
/-! DEFINITION. The terms in which statements are made: the state invariants of spec/42_state_machine.md R180, the
accumulator invariant R181, the trace properties of R182, and the table of R150 as a predicate. -/

namespace Sys2Proof.Safety

open Sys2Proof.Machine

/-! ## Classes of states -/

/-- The states in which the transport is held (R180 (h)). -/
def holdsTransport (st : ProtoState) : Prop :=
  st = .erasing ∨ st = .transferring ∨ st = .awaitingPageCrc ∨ st = .pageAccepted ∨ st = .pageRejected ∨
    st = .completing

/-- The states in which the cursor stands on a frame of the image (R180 (e)). -/
def onFrame (st : ProtoState) : Prop :=
  st = .transferring ∨ st = .awaitingPageCrc ∨ st = .pageAccepted ∨ st = .pageRejected

/-- The states in which the current frame has been sent as a challenge (R180 (f)). -/
def challenged (st : ProtoState) : Prop := st = .awaitingPageCrc ∨ st = .pageAccepted ∨ st = .pageRejected

/-- A request is outstanding (R34, R81). -/
def blocked (st : ProtoState) : Prop := st = .erasing ∨ st = .awaitingPageCrc

/-- The end of a run (R176). -/
def terminal (st : ProtoState) : Prop := st = .done ∨ st = .aborted

/-- The kinds that take the abort entry (R200). -/
def abortKind (k : ErrorKind) : Prop :=
  k = .eraseFailed ∨ k = .transportTimeout ∨ k = .malformedResponse ∨ k = .cancelled ∨ k = .outOfRange

/-- Which `error` a state may hold (R180 (i)). -/
def errorFits (st : ProtoState) (k : ErrorKind) : Prop :=
  if st = .idle then k = .none ∨ k = .imageNotFrameAligned ∨ k = .imageEmpty
  else if st = .aborted then abortKind k
  else k = .none

/-! ## The state invariants -/

/-- Rule R180, clause by clause; (a) holds by the type of `frameInPage` (U12, log 3). -/
structure StateInv (s : State) : Prop where
  /-- (a) -/
  frame_le : s.frameInPage.val ≤ 249
  /-- (b) -/
  committed_le : s.state ≠ .idle → s.committedFrameIndex ≤ totalFrames s.imageLen
  /-- (c) -/
  aligned : s.state ≠ .idle → s.imageLen % 8 = 0 ∧ 1 ≤ totalFrames s.imageLen
  /-- (d) -/
  fresh : s.state = .erasing → s.committedFrameIndex = 0 ∧ s.frameInPage = 0 ∧ s.crcAccumulator = 0
  /-- (e) -/
  inImage : onFrame s.state → s.committedFrameIndex % 250 = 0 ∧ curIndex s < totalFrames s.imageLen
  /-- (f) -/
  atChallenge : challenged s.state → s.frameInPage.val = 249 ∨ curIndex s + 1 = totalFrames s.imageLen
  /-- (g) -/
  consumed : s.state = .completing ∨ s.state = .done →
    s.committedFrameIndex = totalFrames s.imageLen ∧ s.frameInPage = 0 ∧ s.crcAccumulator = 0
  /-- (h) -/
  held : s.tpHeld = true ↔ holdsTransport s.state
  /-- (i) -/
  errors : errorFits s.state s.error

/-- The two registers that the model holds as naturals fit their widths (R22, R25, D3). -/
def registersFit (s : State) : Prop :=
  s.imageLen < 2 ^ s.params.addrW ∧ s.committedFrameIndex < 2 ^ idxW s.params

/-- The accumulator is the CRC, from 0x0000, of the image bytes of the page's first `frames` frames. -/
def foldedFrames (s : State) (frames : Nat) : Prop :=
  ∃ bs, Memory.slice s.image (8 * s.committedFrameIndex) (8 * frames) = some bs ∧ s.crcAccumulator = crcSeq 0 bs

/-- Rule R181: the frames before the current one are folded in `Transferring`; the current one too once it has been
sent as the challenge. -/
def accumulatorExact (s : State) : Prop :=
  (s.state = .transferring → foldedFrames s s.frameInPage.val) ∧
    (challenged s.state → foldedFrames s (s.frameInPage.val + 1))

/-! ## The output trace -/

/-- One operation's effect on whether the transport is held, `none` once the discipline is broken: `Connect` only
when it is not held, everything else only while it is (R27, R182). -/
def bracketStep : Option Bool → TransportOp → Option Bool
  | some false, .connect => some true
  | some true, .close => some false
  | some true, .send _ _ _ => some true
  | some true, .request _ _ _ _ _ => some true
  | _, _ => none

/-- Whether the transport is held after a trace of whole transfers and perhaps one under way. -/
def bracketed (tr : List TransportOp) : Option Bool := tr.foldl bracketStep (some false)

/-- The trace is a sequence of `Connect`, messages, `Close`, and `tp_held` says where in it the block is: the
transport is released exactly once per transfer (R182). -/
def transportBracketed (s : State) : Prop := bracketed s.trace = some s.tpHeld

/-- What the messages of a transfer have carried so far: the payload bytes of accepted pages, those of the page
under way, and how many MSG.WRITE_FRAME that page has had. -/
structure Delivery where
  accepted : List Byte
  pending : List Byte
  writes : Nat
  deriving DecidableEq, Repr

/-- A transfer that has carried nothing. -/
def Delivery.fresh : Delivery := { accepted := [], pending := [], writes := 0 }

/-- One emitted operation's effect on what has been carried. -/
def carry (d : Delivery) : TransportOp → Delivery
  | .connect => Delivery.fresh
  | .send _ .writeToFlash p => { d with pending := d.pending ++ p, writes := d.writes + 1 }
  | .request _ .writeToFlash _ p _ => { d with pending := d.pending ++ p }
  | .send _ .crcSucceeded _ => { accepted := d.accepted ++ d.pending, pending := [], writes := 0 }
  | .send _ .crcFailed _ => { d with pending := [], writes := 0 }
  | _ => d

/-- What the last transfer of a trace has carried. -/
def carried (tr : List TransportOp) : Delivery := tr.foldl carry Delivery.fresh

/-- The image's first `frames` frames are the accepted bytes, and the next `more` frames the pending ones. -/
def deliveredUpTo (s : State) (frames more : Nat) : Prop :=
  Memory.slice s.image 0 (8 * frames) = some (carried s.trace).accepted ∧
    Memory.slice s.image (8 * frames) (8 * more) = some (carried s.trace).pending

/-- What the messages carried is the image, frame for frame (R182, last bullet), and a page's MSG.WRITE_FRAMEs are
as many as the frames before the current one (R138). -/
def deliveryExact (s : State) : Prop :=
  (s.state = .erasing → carried s.trace = Delivery.fresh) ∧
  (s.state = .transferring →
    deliveredUpTo s s.committedFrameIndex s.frameInPage.val ∧ (carried s.trace).writes = s.frameInPage.val) ∧
  (challenged s.state →
    deliveredUpTo s s.committedFrameIndex (s.frameInPage.val + 1) ∧
      (carried s.trace).writes = s.frameInPage.val) ∧
  (s.state = .completing ∨ s.state = .done →
    Memory.slice s.image 0 s.imageLen = some (carried s.trace).accepted)

/-- In `Erasing` the transfer has emitted `Connect` and MSG.PROGRAM_START and nothing after them (R151, R182). -/
def onlyStarted (s : State) : Prop :=
  s.state = .erasing → ∃ earlier, s.trace = earlier ++ [.connect, programStartMsg s.params]

/-- The payload length of a message, by its kind (true for `Request`) and code: rule R74's table, `false` for a
combination the block never emits. -/
def lengthFits (kind : Bool) (code : CommandCode) (n : Nat) : Bool :=
  match kind, code with
  | true, .programStart => decide (3 ≤ n ∧ n ≤ 7)
  | true, .writeToFlash => n == 8
  | false, .writeToFlash => n == 8
  | false, .lastFrame => n == 4
  | false, .crcSucceeded => decide (3 ≤ n ∧ n ≤ 7)
  | false, .crcFailed => decide (3 ≤ n ∧ n ≤ 7)
  | false, .loadNewProgram => decide (3 ≤ n ∧ n ≤ 7)
  | _, _ => false

/-- The form of an emitted operation: only the update channel is sent on (R51, R70), with the lengths of R74; the
CRC challenge alone names 0x601 as its response channel. -/
def opFits : TransportOp → Bool
  | .connect => true
  | .close => true
  | .send ch code p => ch == .update && lengthFits false code p.length
  | .request ch code _ p rc =>
    ch == .update && lengthFits true code p.length && (rc == .crcAck) == (code == .writeToFlash)

/-- Every operation of the trace has its form. -/
def traceFits (s : State) : Prop := ∀ op ∈ s.trace, opFits op = true

/-! ## Rules and transitions -/

/-- When a rule is enabled, from the "Enabled" line of each rule of spec/42_state_machine.md and R220; no message and
no pure operation is a rule of R150. -/
def ruleEnabled (i : Instr) (st : ProtoState) (cancelReq : Bool) : Prop :=
  match i with
  | .start _ => st = .idle
  | .startBusy _ => st ≠ .idle
  | .eraseResp _ => st = .erasing
  | .eraseTmo => st = .erasing
  | .frame => st = .transferring ∧ cancelReq = false
  | .frameCancel => st = .transferring ∧ cancelReq = true
  | .crcResp _ => st = .awaitingPageCrc
  | .crcTmo => st = .awaitingPageCrc
  | .pageAccept => st = .pageAccepted
  | .pageReject => st = .pageRejected
  | .complete => st = .completing
  | .cancel => True
  | .reset => True
  | _ => False

/-- The transitions of the state line of R150 as the rules' texts have them (C4, C5), and RESET's (R220). -/
def edge : ProtoState → ProtoState → Bool
  | .idle, .erasing => true
  | .erasing, .transferring => true
  | .erasing, .aborted => true
  | .transferring, .awaitingPageCrc => true
  | .transferring, .aborted => true
  | .awaitingPageCrc, .pageAccepted => true
  | .awaitingPageCrc, .pageRejected => true
  | .awaitingPageCrc, .aborted => true
  | .pageAccepted, .transferring => true
  | .pageAccepted, .completing => true
  | .pageRejected, .transferring => true
  | .completing, .done => true
  | .done, .idle => true
  | .aborted, .idle => true
  | _, _ => false

/-- CRC.UPDATE as software with unbounded integers computes it, masked once at the end (R112): the byte is
exclusive-ored into bits 15:8, and each of the eight shifts keeps what moves above bit 15. -/
def bitstepUnmasked (a : Nat) : Nat := if a.testBit 15 then (2 * a) ^^^ 0x1021 else 2 * a

/-- Eight unmasked steps, then the mask (R112). -/
def crcUpdateMaskedOnce (acc byte : Nat) : Nat :=
  (bitstepUnmasked^[8] (acc ^^^ (byte * 256))) % 2 ^ 16

/-- A frame's eight bytes lie in the image at index `index`, inside `image_len` (R135). -/
def frameThere (s : State) (index : Nat) (f : Frame) : Prop :=
  8 * index + 8 ≤ s.imageLen ∧ Memory.slice s.image (8 * index) 8 = some (frameBytes f)

/-- The abort entry, written out (R200). -/
def abortedFrom (s : State) (k : ErrorKind) : State :=
  { s with
    error := k
    trace := if s.tpHeld then s.trace ++ [.close] else s.trace
    tpHeld := false
    state := .aborted }

end Sys2Proof.Safety
end

