-- ==== Sys2Proof/Certificates/Slice0/Obligations.lean ====
section
/-! DEFINITION. The statements for the provers. Each docstring names the rule of spec/ that it formalises. A premise
`s.probe = none` says that no row is run by itself (log 7), so that the step is one of the spec's. -/

open Sys2Proof Sys2Proof.Machine Sys2Proof.Safety

/-! ## Encodings and selection -/

/-- The seven header words of R96 to R102 (R71), as spec/opcode_table.json numbers them, decode to their messages. -/
def Obligations.HeaderWordsDecodeToTheirMessages : Prop :=
  decodeTableWord 24 0xE0005 = some .msgProgramStart ∧ decodeTableWord 24 0x60008 = some .msgWriteFrame ∧
    decodeTableWord 24 0x60004 = some .msgLastFrameMark ∧ decodeTableWord 24 0xE0008 = some .msgCrcChallenge ∧
    decodeTableWord 24 0x60003 = some .msgCrcOk ∧ decodeTableWord 24 0x60007 = some .msgCrcFail ∧
    decodeTableWord 24 0x60002 = some .msgProgramEnd

/-- R71: decoding the encoded header of a message gives the message, whatever follows. -/
def Obligations.DecodingAnEncodedMessageGivesItBack : Prop :=
  ∀ (i : Instr) (bytes rest : List Byte), encode i = some bytes → decodeHeader (bytes ++ rest) = .instr i rest

/-- R71, R106: no other bytes decode. What decodes to a message is exactly that message's header word. -/
def Obligations.OnlyEncodedMessagesDecode : Prop :=
  ∀ (i : Instr) (bytes rest : List Byte), decodeHeader bytes = .instr i rest →
    ∃ h, encode i = some h ∧ bytes = h ++ rest

/-- R70, R71: what a message's row emits has that message's header word; the one other thing it can do is the abort
entry of R195. -/
def Obligations.EmittedOperationHasTheHeaderOfItsMessage : Prop :=
  ∀ (i : Instr) (s t : State), encodeHeader i ≠ none → exec i s = .next t →
    (∃ op, t = { s with trace := s.trace ++ [op] } ∧ opHeader op = encodeHeader i) ∨ t = abortedFrom s .outOfRange

/-- R150: a rule is selected for an event exactly when the event is the rule's own and the state enables it. -/
def Obligations.RuleSelectedExactlyWhenEnabled : Prop :=
  ∀ (st : ProtoState) (c : Bool) (e : Event) (i : Instr),
    selectRule st c e = some i ↔ eventOf i = some e ∧ ruleEnabled i st c

/-- R72, R103, R104: the state selects the response format, only a blocked state does, and the response row does what
the rule that accepts it does. That the row has an effect of its own is the model's choice (log 16). -/
def Obligations.ResponseRowsActAsTheRulesThatAcceptThem : Prop :=
  ∀ (s : State) (r : List Byte),
    (selectResponse s.state r = none ↔ ¬ blocked s.state) ∧
    ∀ i, selectResponse s.state r = some i →
      ∃ j t, selectRule s.state s.cancelReq (.rsp r) = some j ∧ exec i s = .next t ∧ exec j s = .next t ∧
        (s.state = .erasing → i = .rspStartStatus r ∧ t =
          match r with
          | [] => abortedFrom s .malformedResponse
          | status :: _ =>
            if status = 0x22#8 then abortedFrom s .eraseFailed
            else { s with
              committedFrameIndex := 0
              frameInPage := 0
              crcAccumulator := 0x0000#16
              state := .transferring }) ∧
        (s.state = .awaitingPageCrc → i = .rspCrcAck r ∧ t =
          match decodeCrcAck s.params.byteDecode r with
          | none => abortedFrom s .malformedResponse
          | some devCrc =>
            { s with state := if devCrc = s.crcAccumulator then .pageAccepted else .pageRejected })

/-! ## Steps -/

/-- R8, R150: a step takes the oldest event, or the block's own turn when none is left, and is the meaning of the
rule selected for it. -/
def Obligations.StepRunsTheSelectedRule : Prop :=
  (∀ (s : State) (e : Event) (rest : List Event) (i : Instr), s.probe = none → s.inputs = e :: rest →
    selectRule s.state s.cancelReq e = some i → wellFormed s.params i = true →
    step s = exec i { s with inputs := rest }) ∧
  (∀ (s : State) (i : Instr), s.probe = none → s.inputs = [] → selectInternal s.state s.cancelReq = some i →
    step s = exec i s)

/-- A row run by itself (the model's own, log 7): a step reads the probe's bytes and is the meaning of the instruction
they decode to; `withFetchWord` puts a word of the opcode table there. -/
def Obligations.StepRunsTheDecodedRow : Prop :=
  (∀ (s : State) (bytes rest : List Byte) (i : Instr), s.probe = some (.word bytes) →
    decodeHeader bytes = .instr i rest → wellFormed s.params i = true → step s = exec i { s with probe := none }) ∧
  (∀ (s : State) (i : Instr), s.probe = some (.op i) → wellFormed s.params i = true →
    step s = exec i { s with probe := none }) ∧
  (∀ (s : State) (nbits w : Nat) (i : Instr), decodeTableWord nbits w = some i → wellFormed s.params i = true →
    step (s.withFetchWord nbits w) = exec i { s with probe := none })

/-- R150, R176, R205: a step stops with a fault exactly when nothing is delivered and the block has no step of its own;
the fault says whether the block waits for a command, is blocked, or is at the end of its run. The faults' names and
that such a state has no step are the model's reading (log 11). -/
def Obligations.StepFaultsExactlyWhenNothingCanMove : Prop :=
  ∀ (s : State) (f : Fault), step s = .fault f ↔
    s.probe = none ∧ s.inputs = [] ∧
      ((s.state = .idle ∧ f = .awaitingCommand) ∨ (blocked s.state ∧ f = .awaitingResult) ∨
        (terminal s.state ∧ f = .runOver))

/-- R81: a transport result where no request is outstanding is no move of the environment: the step is refused, and so
is every rule and response row that would consume one. -/
def Obligations.ResultWithoutARequestIsRefused : Prop :=
  (∀ (s : State) (e : Event) (rest : List Event), s.probe = none → s.inputs = e :: rest →
    (e = .tmo ∨ ∃ r, e = .rsp r) → ¬ blocked s.state → step s = .refused .noRequestOutstanding) ∧
  (∀ (s : State) (r : List Byte) (i : Instr), i = .eraseResp r ∨ i = .eraseTmo ∨ i = .rspStartStatus r →
    s.state ≠ .erasing → exec i s = .refused .noRequestOutstanding) ∧
  (∀ (s : State) (r : List Byte) (i : Instr), i = .crcResp r ∨ i = .crcTmo ∨ i = .rspCrcAck r →
    s.state ≠ .awaitingPageCrc → exec i s = .refused .noRequestOutstanding)

/-- R150: the block's own turn in a state without a step of its own changes nothing but the turn (the model's choice,
log 11), and a rule run by itself where it is not enabled is refused (log 15). -/
def Obligations.DisabledRulesDoNothing : Prop :=
  (∀ (s : State) (rest : List Event), s.probe = none → s.inputs = .internal :: rest →
    selectInternal s.state s.cancelReq = none → step s = .next { s with inputs := rest }) ∧
  (∀ (s : State) (len : Nat) (i : Instr),
    i = .startBusy len ∨ i = .frame ∨ i = .frameCancel ∨ i = .pageAccept ∨ i = .pageReject ∨ i = .complete →
    ¬ ruleEnabled i s.state s.cancelReq → exec i s = .refused .notEnabled)

/-- R72, U14, R151: an event whose operand cannot be constructed is refused (the model's choice, log 14). -/
def Obligations.IllFormedEventIsRefused : Prop :=
  (∀ (s : State) (r : List Byte) (rest : List Event), s.probe = none → s.inputs = .rsp r :: rest →
    8 < r.length → blocked s.state → step s = .refused .illFormed) ∧
  (∀ (s : State) (len : Nat) (rest : List Event), s.probe = none → s.inputs = .start len :: rest →
    2 ^ s.params.addrW ≤ len → step s = .refused .illFormed)

/-! ## The messages -/

/-- R86: the marker messages, each with `rep(v, n)`. That a message run by itself emits and changes nothing else is the
model's choice (log 17). -/
def Obligations.MarkerMessagesCarryTheirRepeatedByte : Prop :=
  ∀ s : State,
    exec .msgProgramStart s = .next { s with trace := s.trace ++
      [.request .update .programStart s.params.startTimeout (List.replicate (3 + s.params.startExtra.val) 0x05#8)
        .update] } ∧
    exec .msgLastFrameMark s = .next { s with trace := s.trace ++
      [.send .update .lastFrame [0x04#8, 0x04#8, 0x04#8, 0x04#8]] } ∧
    exec .msgCrcOk s = .next { s with trace := s.trace ++
      [.send .update .crcSucceeded (List.replicate (3 + s.params.okExtra.val) 0x03#8)] } ∧
    exec .msgCrcFail s = .next { s with trace := s.trace ++
      [.send .update .crcFailed (List.replicate (3 + s.params.failExtra.val) 0x07#8)] } ∧
    exec .msgProgramEnd s = .next { s with trace := s.trace ++
      [.send .update .loadNewProgram (List.replicate (3 + s.params.endExtra.val) 0xCC#8)] }

/-- R85: MSG.WRITE_FRAME and MSG.CRC_CHALLENGE carry the current frame, unchanged; run by themselves they change nothing
else (the model's choice, log 17). -/
def Obligations.FrameMessagesCarryTheCurrentFrame : Prop :=
  ∀ (s : State) (f : Frame), frameThere s (s.committedFrameIndex + s.frameInPage.val) f →
    exec .msgWriteFrame s = .next { s with trace := s.trace ++ [.send .update .writeToFlash (frameBytes f)] } ∧
    exec .msgCrcChallenge s = .next { s with trace := s.trace ++
      [.request .update .writeToFlash s.params.crcTimeout (frameBytes f) .crcAck] }

/-- R135, R195, R200: where the frame's eight bytes are not all inside `image_len`, FRAME_AT and the messages that carry
a frame take the abort entry with `OutOfRange` and do nothing else. That they do so when run by themselves is the
model's choice (log 18). -/
def Obligations.FrameOutsideTheImageAborts : Prop :=
  (∀ (s : State) (index : Nat), s.imageLen < 8 * index + 8 →
    exec (.frameAt index) s = .next (abortedFrom s .outOfRange)) ∧
  (∀ (s : State) (i : Instr), s.imageLen < 8 * (s.committedFrameIndex + s.frameInPage.val) + 8 →
    (i = .msgWriteFrame ∨ i = .msgCrcChallenge) → exec i s = .next (abortedFrom s .outOfRange))

/-- R50, R224: where the host loaded no byte at an offset of the frame, inside `image_len`, the rows that read it are
refused (the model's choice, log 10). -/
def Obligations.FrameNotLoadedIsRefused : Prop :=
  (∀ (s : State) (index : Nat), 8 * index + 8 ≤ s.imageLen → Memory.slice s.image (8 * index) 8 = none →
    exec (.frameAt index) s = .refused .imageByteAbsent) ∧
  (∀ (s : State) (i : Instr), 8 * (s.committedFrameIndex + s.frameInPage.val) + 8 ≤ s.imageLen →
    Memory.slice s.image (8 * (s.committedFrameIndex + s.frameInPage.val)) 8 = none →
    (i = .msgWriteFrame ∨ i = .msgCrcChallenge ∨ (i = .frame ∧ s.state = .transferring ∧ s.cancelReq = false)) →
    exec i s = .refused .imageByteAbsent)

/-! ## The CRC engine -/

/-- R110, R111, R113, R114, R115: what the engine's operations do. The pure ones answer and write no register; CRC.CLEAR
writes zero to the accumulator and nothing else. The field that shows the answer is the model's own (log 6). -/
def Obligations.CrcOperationsFollowTheirAlgorithms : Prop :=
  ∀ s : State,
    (∀ acc : Crc, acc.getLsbD 15 = true →
      exec (.crcBitstep acc) s = .next { s with opResult := .crc ((acc <<< 1) ^^^ 0x1021#16) }) ∧
    (∀ acc : Crc, acc.getLsbD 15 = false → exec (.crcBitstep acc) s = .next { s with opResult := .crc (acc <<< 1) }) ∧
    (∀ (acc : Crc) (byte : Byte), exec (.crcUpdate acc byte) s =
      .next { s with opResult := .crc (crcBitstep^[8] (acc ^^^ (byte.setWidth 16 <<< 8))) }) ∧
    (∀ (acc : Crc) (f : Frame), exec (.crcFold8 acc f) s =
      .next { s with opResult := .crc (crcUpdate (crcUpdate (crcUpdate (crcUpdate (crcUpdate (crcUpdate (crcUpdate
        (crcUpdate acc f.b0) f.b1) f.b2) f.b3) f.b4) f.b5) f.b6) f.b7) }) ∧
    (∀ acc : Crc, exec (.crcSeq acc []) s = .next { s with opResult := .crc acc }) ∧
    (∀ (acc : Crc) (bytes : List Byte) (b : Byte), exec (.crcSeq acc (bytes ++ [b])) s =
      .next { s with opResult := .crc (crcUpdate (crcSeq acc bytes) b) }) ∧
    exec .crcClear s = .next { s with crcAccumulator := 0x0000#16 }

/-- R115: the accumulator can be handed back after any byte and the computation resumed. -/
def Obligations.CrcResumesAfterAnyByte : Prop :=
  ∀ (acc v w : Crc) (xs ys : List Byte) (s : State),
    exec (.crcSeq acc xs) s = .next { s with opResult := .crc v } →
    exec (.crcSeq v ys) s = .next { s with opResult := .crc w } →
    exec (.crcSeq acc (xs ++ ys)) s = .next { s with opResult := .crc w }

/-- R112: masking once after eight shifts of an unbounded integer gives the same 16 bits as a 16-bit register. -/
def Obligations.MaskingOnceEqualsMaskingEveryShift : Prop :=
  ∀ (acc : Crc) (byte : Byte), (crcUpdate acc byte).toNat = crcUpdateMaskedOnce acc.toNat byte.toNat

/-- R116: CRC.UPDATE depends on the accumulator's high byte and the byte only through their exclusive or, is linear over
exclusive or, has the table form with the sixteen entries the rule prints, and for a fixed byte is a bijection. -/
def Obligations.CrcUpdateMeetsItsIdentities : Prop :=
  (∀ (acc : Crc) (byte : Byte), crcUpdate acc byte = crcUpdate (acc ^^^ (byte.setWidth 16 <<< 8)) 0x00#8) ∧
    (∀ (a b : Crc) (x y : Byte), crcUpdate (a ^^^ b) (x ^^^ y) = crcUpdate a x ^^^ crcUpdate b y) ∧
    (∀ (acc : Crc) (byte : Byte),
      crcUpdate acc byte = (acc <<< 8) ^^^ crcUpdate 0x0000#16 (acc.extractLsb' 8 8 ^^^ byte)) ∧
    (List.range 16).map (fun i => crcUpdate 0x0000#16 (BitVec.ofNat 8 i)) =
      [0x0000#16, 0x1021#16, 0x2042#16, 0x3063#16, 0x4084#16, 0x50A5#16, 0x60C6#16, 0x70E7#16, 0x8108#16, 0x9129#16,
        0xA14A#16, 0xB16B#16, 0xC18C#16, 0xD1AD#16, 0xE1CE#16, 0xF1EF#16] ∧
    (∀ byte : Byte, Function.Bijective fun acc : Crc => crcUpdate acc byte)

/-! ## The chunker -/

/-- R131 to R134, R136, R137: what the chunker's operations answer, with no register written. The field that shows the
answer is the model's own (log 6). -/
def Obligations.ChunkerOperationsAnswerTheirFunctions : Prop :=
  ∀ s : State,
    (∀ (index : Nat) (k : BitVec 3),
      exec (.byteAddr index k) s = .next { s with opResult := .offset (8 * index + k.toNat) }) ∧
    (∀ len : Nat, exec (.totalFrames len) s = .next { s with opResult := .count (len / 8) }) ∧
    (∀ index len : Nat,
      exec (.isLastFrame index len) s = .next { s with opResult := .truth (decide (index + 1 = len / 8)) }) ∧
    (∀ b : BitVec 8, exec (.isPageBoundary b) s = .next { s with opResult := .truth (decide (b = 249#8)) }) ∧
    exec .curIndex s = .next { s with opResult := .count (s.committedFrameIndex + s.frameInPage.val) } ∧
    (s.committedFrameIndex + s.frameInPage.val + 1 = s.imageLen / 8 →
      exec .classify s = .next { s with opResult := .cls (.challenge true) }) ∧
    (s.committedFrameIndex + s.frameInPage.val + 1 ≠ s.imageLen / 8 → s.frameInPage.val = 249 →
      exec .classify s = .next { s with opResult := .cls (.challenge false) }) ∧
    (s.committedFrameIndex + s.frameInPage.val + 1 ≠ s.imageLen / 8 → s.frameInPage.val ≠ 249 →
      exec .classify s = .next { s with opResult := .cls .midPage })

/-- R135, R50, R53: FRAME_AT answers the frame whose byte `k` is the image's byte at `8 * index + k`. The field that shows
the answer is the model's own (log 6). -/
def Obligations.FrameAtAnswersTheImageBytes : Prop :=
  ∀ (s : State) (index : Nat) (f : Frame), 8 * index + 8 ≤ s.imageLen →
    (∀ k, k < 8 → Memory.read s.image (8 * index + k) = (frameBytes f)[k]?) →
    exec (.frameAt index) s = .next { s with opResult := .frame f }

/-- R131: the byte offset of a frame's byte never overflows ADDR_W bits, where ADDR_W is at least 3 as IDX_W = ADDR_W − 3
needs it; below 3 the spec gives no index width, and the model's is its choice (log 32). -/
def Obligations.ByteAddressFitsItsWidth : Prop :=
  ∀ (s t : State) (index : Nat) (k : BitVec 3), 3 ≤ s.params.addrW → wellFormed s.params (.byteAddr index k) = true →
    exec (.byteAddr index k) s = .next t → ∃ a, t.opResult = .offset a ∧ a < 2 ^ s.params.addrW ∧ a / 8 = index

/-! ## The transfer state machine -/

/-- R151, R196: START in `Idle`: the alignment test first, then the emptiness test, else the transfer begins. -/
def Obligations.StartBeginsOrRefusesTheTransfer : Prop :=
  ∀ (s : State) (len : Nat), s.state = .idle →
    (len % 8 ≠ 0 → exec (.start len) s = .next { s with error := .imageNotFrameAligned }) ∧
    (len % 8 = 0 → len / 8 = 0 → exec (.start len) s = .next { s with error := .imageEmpty }) ∧
    (len % 8 = 0 → len / 8 ≠ 0 → exec (.start len) s = .next { s with
      imageLen := len
      committedFrameIndex := 0
      frameInPage := 0
      crcAccumulator := 0x0000#16
      error := .none
      cancelReq := false
      tpHeld := true
      trace := s.trace ++ [.connect, .request .update .programStart s.params.startTimeout
        (List.replicate (3 + s.params.startExtra.val) 0x05#8) .update]
      state := .erasing })

/-- R152: a START outside `Idle` changes nothing. -/
def Obligations.StartOutsideIdleHasNoEffect : Prop :=
  ∀ (s : State) (len : Nat), s.state ≠ .idle →
    exec (.startBusy len) s = .next s ∧ exec (.start len) s = .next s ∧
      selectRule s.state s.cancelReq (.start len) = some (.startBusy len)

/-- R153, R90: the start response: length first, then the status byte, the rest ignored. -/
def Obligations.StartResponseProceedsOrAborts : Prop :=
  ∀ s : State, s.state = .erasing →
    exec (.eraseResp []) s = .next (abortedFrom s .malformedResponse) ∧
    (∀ rest, exec (.eraseResp (0x22#8 :: rest)) s = .next (abortedFrom s .eraseFailed)) ∧
    (∀ status rest, status ≠ 0x22#8 → exec (.eraseResp (status :: rest)) s = .next { s with
      committedFrameIndex := 0
      frameInPage := 0
      crcAccumulator := 0x0000#16
      state := .transferring })

/-- R154, R161: a timeout of either request takes the abort entry. -/
def Obligations.TimeoutAborts : Prop :=
  (∀ s : State, s.state = .erasing → exec .eraseTmo s = .next (abortedFrom s .transportTimeout)) ∧
  (∀ s : State, s.state = .awaitingPageCrc → exec .crcTmo s = .next (abortedFrom s .transportTimeout))

/-- R155: FRAME folds the current frame and sends it, as a write in mid-page and as a challenge at a page boundary or at
the image's last frame, which the marker precedes; outside the image it raises `OutOfRange`. -/
def Obligations.FrameFoldsAndSendsTheCurrentFrame : Prop :=
  ∀ s : State, s.state = .transferring → s.cancelReq = false →
    (s.imageLen < 8 * (s.committedFrameIndex + s.frameInPage.val) + 8 →
      exec .frame s = .next (abortedFrom s .outOfRange)) ∧
    ∀ f : Frame, frameThere s (s.committedFrameIndex + s.frameInPage.val) f →
      (s.committedFrameIndex + s.frameInPage.val + 1 ≠ s.imageLen / 8 → s.frameInPage.val ≠ 249 →
        ∃ next : Fin 250, next.val = s.frameInPage.val + 1 ∧
          exec .frame s = .next { s with
            crcAccumulator := crcFold8 s.crcAccumulator f
            trace := s.trace ++ [.send .update .writeToFlash (frameBytes f)]
            frameInPage := next }) ∧
      (s.committedFrameIndex + s.frameInPage.val + 1 ≠ s.imageLen / 8 → s.frameInPage.val = 249 →
        exec .frame s = .next { s with
          crcAccumulator := crcFold8 s.crcAccumulator f
          trace := s.trace ++ [.request .update .writeToFlash s.params.crcTimeout (frameBytes f) .crcAck]
          state := .awaitingPageCrc }) ∧
      (s.committedFrameIndex + s.frameInPage.val + 1 = s.imageLen / 8 →
        exec .frame s = .next { s with
          crcAccumulator := crcFold8 s.crcAccumulator f
          trace := s.trace ++ [.send .update .lastFrame [0x04#8, 0x04#8, 0x04#8, 0x04#8],
            .request .update .writeToFlash s.params.crcTimeout (frameBytes f) .crcAck]
          state := .awaitingPageCrc })

/-- R156: a recorded cancellation ends the transfer at the next `Transferring` step. -/
def Obligations.RecordedCancelAbortsBetweenFrames : Prop :=
  ∀ s : State, s.state = .transferring → s.cancelReq = true →
    exec .frameCancel s = .next (abortedFrom s .cancelled) ∧
      selectInternal s.state s.cancelReq = some .frameCancel

/-- R160, R91, R92: the CRC response: length first, then both byte pairs, then the comparison on all 16 bits; offset 2
and the bytes from offset 5 on have no influence. -/
def Obligations.CrcResponseDecidesThePage : Prop :=
  ∀ s : State, s.state = .awaitingPageCrc →
    (∀ r : List Byte, r.length < 5 → exec (.crcResp r) s = .next (abortedFrom s .malformedResponse)) ∧
    (∀ (r0 r1 r2 r3 r4 : Byte) (rest : List Byte),
      (byteDecode s.params.byteDecode r0 r1 = none ∨ byteDecode s.params.byteDecode r3 r4 = none →
        exec (.crcResp (r0 :: r1 :: r2 :: r3 :: r4 :: rest)) s = .next (abortedFrom s .malformedResponse)) ∧
      (∀ hi lo : Byte, byteDecode s.params.byteDecode r0 r1 = some hi →
        byteDecode s.params.byteDecode r3 r4 = some lo →
        (hi ++ lo = s.crcAccumulator →
          exec (.crcResp (r0 :: r1 :: r2 :: r3 :: r4 :: rest)) s = .next { s with state := .pageAccepted }) ∧
        (hi ++ lo ≠ s.crcAccumulator →
          exec (.crcResp (r0 :: r1 :: r2 :: r3 :: r4 :: rest)) s = .next { s with state := .pageRejected })))

/-- R162: PAGE_ACCEPT notifies, advances by the frames of the verified page, and goes on or completes. -/
def Obligations.PageAcceptAdvancesByThePage : Prop :=
  ∀ s : State, s.state = .pageAccepted →
    exec .pageAccept s = .next { s with
      trace := s.trace ++ [.send .update .crcSucceeded (List.replicate (3 + s.params.okExtra.val) 0x03#8)]
      committedFrameIndex := s.committedFrameIndex + s.frameInPage.val + 1
      frameInPage := 0
      crcAccumulator := 0x0000#16
      state := if s.committedFrameIndex + s.frameInPage.val + 1 = s.imageLen / 8 then .completing
        else .transferring }

/-- R164: PAGE_REJECT notifies and rewinds the page, the committed index kept. -/
def Obligations.PageRejectRewindsThePage : Prop :=
  ∀ s : State, s.state = .pageRejected →
    exec .pageReject s = .next { s with
      trace := s.trace ++ [.send .update .crcFailed (List.replicate (3 + s.params.failExtra.val) 0x07#8)]
      frameInPage := 0
      crcAccumulator := 0x0000#16
      state := .transferring }

/-- R166: COMPLETE sends the end-of-program message, releases the transport and is done, whatever `cancel_req` holds. -/
def Obligations.CompleteEndsAndReleases : Prop :=
  ∀ s : State, s.state = .completing →
    exec .complete s = .next { s with
      trace := s.trace ++ [.send .update .loadNewProgram (List.replicate (3 + s.params.endExtra.val) 0xCC#8), .close]
      tpHeld := false
      state := .done }

/-- R168: CANCEL is recorded while a transfer is under way and has no effect in `Idle`, `Done` and `Aborted`. -/
def Obligations.CancelIsRecordedInATransfer : Prop :=
  ∀ s : State,
    (holdsTransport s.state → exec .cancel s = .next { s with cancelReq := true }) ∧
    (s.state = .idle ∨ s.state = .done ∨ s.state = .aborted → exec .cancel s = .next s)

/-- R220, R221, R35: RESET with the transport not held writes every register to its reset value and emits nothing;
while the transport is held it is refused. -/
def Obligations.ResetWritesEveryRegisterUnlessHeld : Prop :=
  ∀ s : State,
    (s.tpHeld = false → exec .reset s = .next { s with
      state := .idle
      committedFrameIndex := 0
      frameInPage := 0
      crcAccumulator := 0x0000#16
      imageLen := 0
      error := .none
      tpHeld := false
      cancelReq := false }) ∧
    (s.tpHeld = true → exec .reset s = .refused .resetWhileHeld)

/-- R200, R201: whatever instruction enters `Aborted`, the step is the abort entry and nothing else. -/
def Obligations.AbortsArePrecise : Prop :=
  ∀ (i : Instr) (s t : State), exec i s = .next t → s.state ≠ .aborted → t.state = .aborted →
    abortKind t.error ∧ t = abortedFrom s t.error

/-! ## Frames -/

/-- R20, column "written by": which rows can change which register. The abort entry (R200) is the one other writer of
`state`, `error` and `tp_held`, and it writes nothing else. The rows run by themselves that write a register are
RSP.START_STATUS and RSP.CRC_ACK (log 16), CRC.CLEAR (R113) and those that abort (log 18). -/
def Obligations.RegistersAreWrittenOnlyByTheirRules : Prop :=
  ∀ (i : Instr) (s t : State), exec i s = .next t →
    (t.state ≠ s.state →
      (∃ len, i = .start len) ∨ (∃ r, i = .eraseResp r ∨ i = .rspStartStatus r ∨ i = .crcResp r ∨ i = .rspCrcAck r) ∨
        i = .frame ∨ i = .pageAccept ∨ i = .pageReject ∨ i = .complete ∨ i = .reset ∨ t = abortedFrom s t.error) ∧
    (t.imageLen ≠ s.imageLen → (∃ len, i = .start len) ∨ i = .reset) ∧
    (t.cancelReq ≠ s.cancelReq → (∃ len, i = .start len) ∨ i = .cancel ∨ i = .reset) ∧
    (t.error ≠ s.error → (∃ len, i = .start len) ∨ i = .reset ∨ t = abortedFrom s t.error) ∧
    (t.tpHeld ≠ s.tpHeld → (∃ len, i = .start len) ∨ i = .complete ∨ i = .reset ∨ t = abortedFrom s t.error) ∧
    (t.committedFrameIndex ≠ s.committedFrameIndex →
      (∃ len, i = .start len) ∨ (∃ r, i = .eraseResp r ∨ i = .rspStartStatus r) ∨ i = .pageAccept ∨ i = .reset) ∧
    (t.frameInPage ≠ s.frameInPage →
      (∃ len, i = .start len) ∨ (∃ r, i = .eraseResp r ∨ i = .rspStartStatus r) ∨ i = .frame ∨ i = .pageAccept ∨
        i = .pageReject ∨ i = .reset) ∧
    (t.crcAccumulator ≠ s.crcAccumulator →
      (∃ len, i = .start len) ∨ (∃ r, i = .eraseResp r ∨ i = .rspStartStatus r) ∨ i = .frame ∨ i = .pageAccept ∨
        i = .pageReject ∨ i = .reset ∨ i = .crcClear)

/-- R52, R61, R33: no step writes a byte of the image or a parameter; the image's form is kept. Holds of every step, a
row run by itself included. -/
def Obligations.NoStepWritesTheImageOrTheParameters : Prop :=
  ∀ s t : State, step s = .next t →
    (∀ a, Memory.read t.image a = Memory.read s.image a) ∧ t.params = s.params ∧
      (Memory.wf s.image → Memory.wf t.image)

/-- R7, R58: the output trace only grows: every step keeps what was emitted and appends at most two operations. -/
def Obligations.TraceOnlyGrows : Prop :=
  ∀ s t : State, step s = .next t → ∃ ops : List TransportOp, t.trace = s.trace ++ ops ∧ ops.length ≤ 2

/-- R20, column "read by": `error` is read by no rule, FRAME and FRAME.CANCEL included, and `cancel_req` by those two
only. -/
def Obligations.ErrorAndCancelRequestInfluenceNothingElse : Prop :=
  (∀ (i : Instr) (s t : State) (k : ErrorKind), exec i s = .next t →
    ∃ u, exec i { s with error := k } = .next u ∧ { u with error := t.error } = t ∧
      (u.error = t.error ∨ (t.error = s.error ∧ u.error = k))) ∧
  (∀ (i : Instr) (s t : State) (k : ErrorKind) (c : Bool), i ≠ .frame → i ≠ .frameCancel → exec i s = .next t →
    ∃ u, exec i { s with error := k, cancelReq := c } = .next u ∧
      { u with error := t.error, cancelReq := t.cancelReq } = t ∧
      (u.error = t.error ∨ (t.error = s.error ∧ u.error = k)) ∧
      (u.cancelReq = t.cancelReq ∨ (t.cancelReq = s.cancelReq ∧ u.cancelReq = c)))

/-! ## Invariants that every step keeps -/

/-- R35, R180: the state after reset has its registers at the values of R35 and meets every invariant below. -/
def Obligations.ResetMeetsEveryInvariant : Prop :=
  (∀ n, n < 7 → statusView State.reset n = some 0) ∧ StateInv State.reset ∧ registersFit State.reset ∧
    accumulatorExact State.reset ∧ transportBracketed State.reset ∧ deliveryExact State.reset ∧
    onlyStarted State.reset ∧ traceFits State.reset ∧ Memory.wf State.reset.image ∧ State.reset.probe = none

/-- R180: the state invariants are preserved by every rule, and `image_len` does not change in a transfer. -/
def Obligations.EveryStepKeepsTheStateInvariants : Prop :=
  ∀ s t : State, s.probe = none → StateInv s → step s = .next t →
    StateInv t ∧ t.probe = none ∧ (s.state ≠ .idle → t.state ≠ .idle → t.imageLen = s.imageLen)

/-- R181: the accumulator is exactly the CRC of the page's bytes folded so far, in every state. -/
def Obligations.EveryStepKeepsTheAccumulatorExact : Prop :=
  ∀ s t : State, s.probe = none → accumulatorExact s → step s = .next t → accumulatorExact t

/-- R182, third bullet, and R27: the transport is connected once and released once per transfer, every message lies
between, and `tp_held` says where the block is. -/
def Obligations.EveryStepKeepsTheTransportBracketed : Prop :=
  ∀ s t : State, s.probe = none → StateInv s → transportBracketed s → step s = .next t → transportBracketed t

/-- R182, last bullet, and R138: the bytes accepted so far are the image's committed frames, the bytes pending those of
the page under way, with one MSG.WRITE_FRAME for each frame before the current one; in `Done` they are the image. -/
def Obligations.EveryStepKeepsTheDeliveryExact : Prop :=
  ∀ s t : State, s.probe = none → StateInv s → deliveryExact s → step s = .next t → deliveryExact t

/-- R51, R70, R74: every operation ever emitted goes out on the update channel with a listed code and a payload of the
length of R74. Holds of every step, a row run by itself included. -/
def Obligations.EveryStepKeepsTheMessagesInForm : Prop :=
  ∀ s t : State, traceFits s → step s = .next t → traceFits t

/-- D3, R139: no rule lets a register that the model holds as a natural reach its width. -/
def Obligations.EveryStepKeepsTheRegistersInTheirWidths : Prop :=
  ∀ s t : State, s.probe = none → StateInv s → registersFit s → step s = .next t → registersFit t

/-- R176: at the end of a run the transport is not held and the last emitted operation is `Close`. -/
def Obligations.EveryRunEndsWithClose : Prop :=
  ∀ s t : State, s.probe = none → StateInv s → (terminal s.state → s.trace.getLast? = some .close) → step s = .next t →
    terminal t.state → t.tpHeld = false ∧ t.trace.getLast? = some .close

/-! ## Whole-machine rules -/

/-- R180 (e), R30: in a transfer FRAME_AT cannot raise, the page position is the frame index modulo 250, and the byte
address is below `image_len`. -/
def Obligations.FrameInATransferIsInsideTheImage : Prop :=
  ∀ s : State, StateInv s → onFrame s.state →
    frameAt s (curIndex s) ≠ .outOfRange ∧ s.frameInPage.val = curIndex s % 250 ∧
      byteAddr (curIndex s) 7 < s.imageLen

/-- R150, C4, C5: a step changes `state` only along the transitions of the rules' texts. -/
def Obligations.StateChangesOnlyAlongTheTransitions : Prop :=
  ∀ s t : State, s.probe = none → StateInv s → step s = .next t → t.state ≠ s.state → edge s.state t.state = true

/-- R170, R171, R204: a terminal state is left only by RESET, and nothing is emitted there. -/
def Obligations.TerminalStateIsLeftOnlyByReset : Prop :=
  ∀ s t : State, s.probe = none → terminal s.state → step s = .next t →
    t.trace = s.trace ∧ (t.state ≠ s.state → t.state = .idle ∧ ∃ rest, s.inputs = .reset :: rest)

/-- R59, R168, R205: a blocked state is left only by the transport's result; CANCEL does not lift it, and nothing is
emitted before the result comes. -/
def Obligations.BlockedStateIsLeftOnlyByAResult : Prop :=
  ∀ s t : State, s.probe = none → StateInv s → blocked s.state → step s = .next t →
    (t.state = s.state ∧ t.trace = s.trace) ∨ ∃ rest, s.inputs = .tmo :: rest ∨ ∃ r, s.inputs = .rsp r :: rest

/-- R182, fifth bullet: within a transfer `committed_frame_index` never decreases, and it increases only in PAGE_ACCEPT,
which only a response that decoded to the accumulator leads to. -/
def Obligations.CommitmentIsMonotone : Prop :=
  ∀ s t : State, s.probe = none → StateInv s → step s = .next t →
    (s.state ≠ .idle → t.state ≠ .idle → s.committedFrameIndex ≤ t.committedFrameIndex) ∧
    (s.committedFrameIndex < t.committedFrameIndex → s.state = .pageAccepted) ∧
    (t.state = .pageAccepted → s.state ≠ .pageAccepted →
      ∃ r rest, s.inputs = .rsp r :: rest ∧ decodeCrcAck s.params.byteDecode r = some s.crcAccumulator)

/-- R182, fourth bullet, R191: in `Erasing` a transfer has emitted `Connect` and MSG.PROGRAM_START and nothing else, which
every step keeps; aborted there, by whatever cause, it has emitted those two and `Close`, so no frame; and only a response
with the first byte 0x22 makes the error EraseFailed. -/
def Obligations.EraseFailureSendsNoFrame : Prop :=
  ∀ s t : State, s.probe = none → step s = .next t →
    (onlyStarted s → onlyStarted t) ∧
    (s.state = .erasing → t.state = .aborted →
      (∀ earlier, s.tpHeld = true → s.trace = earlier ++ [.connect, programStartMsg s.params] →
        t.trace = earlier ++ [.connect, programStartMsg s.params, .close]) ∧
      (deliveryExact s → carried t.trace = Delivery.fresh) ∧
      (t.error = .eraseFailed → ∃ rest more, s.inputs = .rsp (0x22#8 :: more) :: rest))

/-- R182, second bullet (retry idempotence): what FRAME computes and emits is a function of the cursor, the
accumulator, the image and the parameters alone. -/
def Obligations.FrameDependsOnTheCursorAndTheImageAlone : Prop :=
  ∀ s s' t : State, s.state = s'.state → s.cancelReq = s'.cancelReq →
    s.committedFrameIndex = s'.committedFrameIndex → s.frameInPage = s'.frameInPage →
    s.crcAccumulator = s'.crcAccumulator → s.imageLen = s'.imageLen → s.image = s'.image → s.params = s'.params →
    exec .frame s = .next t →
    ∃ (t' : State) (ops : List TransportOp), exec .frame s' = .next t' ∧ t.crcAccumulator = t'.crcAccumulator ∧
      t.frameInPage = t'.frameInPage ∧ t.state = t'.state ∧
      (t.state ≠ .aborted → t.trace = s.trace ++ ops ∧ t'.trace = s'.trace ++ ops)

/-- R165: the retry policy has no limit. Against a device that rejects a one-frame page every time, the page is sent
any number of times and the cursor stands where it stood. -/
def Obligations.RejectedPageIsResentWithoutLimit : Prop :=
  ∀ (n : Nat) (s : State) (f : Frame) (r : List Byte) (v : Crc) (rest : List Event),
    s.probe = none → s.state = .transferring → s.cancelReq = false → s.frameInPage = 0 → s.crcAccumulator = 0 →
    s.committedFrameIndex + 1 = s.imageLen / 8 → frameThere s s.committedFrameIndex f → r.length ≤ 8 →
    decodeCrcAck s.params.byteDecode r = some v → v ≠ crcSeq 0 (frameBytes f) →
    s.inputs = (List.replicate n [Event.internal, .rsp r, .internal]).flatten ++ rest →
    Host.Core.run Sys2Proof.core (3 * n) s = .next { s with
      inputs := rest
      trace := s.trace ++ (List.replicate n
        [lastFrameMarkMsg, crcChallengeMsg s.params f, crcFailMsg s.params]).flatten }

/-- R182, S6: the one-frame image from START to `Done`, whatever frame it holds and whatever the device answers with,
so long as the status is not 0x22 and the CRC response decodes to the frame's CRC. -/
def Obligations.OneFrameImageIsTransferred : Prop :=
  ∀ (s : State) (f : Frame) (status : Byte) (more r : List Byte),
    s.probe = none → s.state = .idle → s.image = Memory.ofBytes 0 (frameBytes f) → 8 < 2 ^ s.params.addrW →
    status ≠ 0x22#8 → more.length ≤ 7 → r.length ≤ 8 →
    decodeCrcAck s.params.byteDecode r = some (crcSeq 0 (frameBytes f)) →
    s.inputs = [.start 8, .rsp (status :: more), .internal, .rsp r, .internal, .internal] →
    Host.Core.run Sys2Proof.core 6 s = .next { s with
      state := .done
      committedFrameIndex := 1
      frameInPage := 0
      crcAccumulator := 0
      imageLen := 8
      error := .none
      tpHeld := false
      cancelReq := false
      inputs := []
      trace := s.trace ++ [.connect, programStartMsg s.params, lastFrameMarkMsg, crcChallengeMsg s.params f,
        crcOkMsg s.params, programEndMsg s.params, .close] }

/-- R165, R205: from every state of a transfer that is about to process a frame, with the image loaded and no
cancellation recorded, some answers of the device bring this transfer to `Done`, if BYTE_DECODE can express every CRC
(the named premise R92 asks for). The schedule holds the block's own turns and the device's responses and no host
command, so what ends is the transfer under way: its length is kept, all its frames are committed, no `Connect` is
among what is emitted, and the registers stay in their widths (log 2). -/
def Obligations.EveryTransferCanStillComplete : Prop :=
  ∀ s : State, s.probe = none → StateInv s → s.state = .transferring → s.cancelReq = false →
    (∃ bs, Memory.slice s.image 0 s.imageLen = some bs) →
    (∀ v : Crc, ∃ r : List Byte, r.length ≤ 8 ∧ decodeCrcAck s.params.byteDecode r = some v) →
    ∃ (answers : List Event) (n : Nat) (t : State) (ops : List TransportOp),
      (∀ e ∈ answers, e = .internal ∨ ∃ r, e = .rsp r) ∧
      Host.Core.run Sys2Proof.core n { s with inputs := answers } = .next t ∧ t.state = .done ∧
      t.imageLen = s.imageLen ∧ t.committedFrameIndex = totalFrames s.imageLen ∧
      t.trace = s.trace ++ ops ∧ .connect ∉ ops ∧ (registersFit s → registersFit t)

/-! ## The status view and the notation -/

/-- R32, R21, R26: the seven views show the registers, each in its width, `state` and `error` by their numbers; no other
number names a view. -/
def Obligations.StatusViewsShowTheRegisters : Prop :=
  ∀ s : State, StateInv s → registersFit s →
    (∀ n, statusView s n = none ↔ 7 ≤ n) ∧
    (∀ n v, statusView s n = some v → ∃ w, statusWidth s.params n = some w ∧ v < 2 ^ w) ∧
    statusView s 2 = some s.committedFrameIndex ∧ statusView s 3 = some s.frameInPage.val ∧
    statusView s 4 = some s.crcAccumulator.toNat ∧ statusView s 5 = some s.imageLen ∧
    statusView s 6 = some (s.tpHeld.toNat + 2 * s.cancelReq.toNat) ∧
    statusView s 0 = some ([ProtoState.idle, .erasing, .transferring, .awaitingPageCrc, .pageAccepted, .pageRejected,
      .completing, .done, .aborted].idxOf s.state) ∧
    statusView s 1 = some ([ErrorKind.none, .eraseFailed, .transportTimeout, .malformedResponse, .cancelled,
      .imageNotFrameAligned, .imageEmpty, .outOfRange].idxOf s.error)

/-- R93, R109: the payload that `CRCRSP hhhh` stands for decodes to hhhh under BYTE_DECODE_REF. -/
def Obligations.CrcRspNotationDecodesToItsValue : Prop :=
  ∀ v : Crc, decodeCrcAck .asciiHex (crcRspPayload v) = some v
end

