-- ==== Sys2Proof/Laws/Config.lean ====
section
/-! SUPPORT. BYTE_DECODE held as plain data loses nothing: every function of two bytes is some value of it (log 20). -/

namespace Sys2Proof.Laws.Config

open Sys2Proof.Machine

/-- All bytes. -/
def allBytes : List Byte := (List.finRange 256).map fun i => BitVec.ofFin i

theorem mem_allBytes (b : Byte) : b ∈ allBytes := List.mem_map.2 ⟨b.toFin, List.mem_finRange _, rfl⟩

/-- The table of a function. -/
def ByteDecode.ofFun (f : Byte → Byte → Option Byte) : ByteDecode :=
  .table ((allBytes ×ˢ allBytes).filterMap fun ab => (f ab.1 ab.2).map fun v => (ab, v))

theorem tableDecode_of_sound {es : List ((Byte × Byte) × Byte)} {a b v : Byte}
    (hs : ∀ e ∈ es, e.1 = (a, b) → e.2 = v) (hm : ∃ e ∈ es, e.1 = (a, b)) : tableDecode es a b = some v := by
  induction es with
  | nil => simp at hm
  | cons e es ih =>
    obtain ⟨k, w⟩ := e
    simp only [tableDecode]
    split
    · rename_i hk
      exact congrArg some (hs (k, w) List.mem_cons_self hk)
    · rename_i hk
      obtain ⟨e, he, hek⟩ := hm
      rcases List.mem_cons.1 he with rfl | he
      · exact absurd hek hk
      · exact ih (fun e he => hs e (List.mem_cons_of_mem _ he)) ⟨e, he, hek⟩

theorem tableDecode_eq_none {es : List ((Byte × Byte) × Byte)} {a b : Byte} (h : ∀ e ∈ es, e.1 ≠ (a, b)) :
    tableDecode es a b = none := by
  induction es with
  | nil => rfl
  | cons e es ih =>
    obtain ⟨k, w⟩ := e
    have hk : k ≠ (a, b) := h (k, w) List.mem_cons_self
    simp [tableDecode, hk, ih fun e he => h e (List.mem_cons_of_mem _ he)]

/-- The table of `f` decodes as `f`. -/
theorem ByteDecode.apply_ofFun (f : Byte → Byte → Option Byte) (a b : Byte) :
    byteDecode (ByteDecode.ofFun f) a b = f a b := by
  have hmem : ∀ e, e ∈ (allBytes ×ˢ allBytes).filterMap (fun ab => (f ab.1 ab.2).map fun v => (ab, v)) →
      f e.1.1 e.1.2 = some e.2 := by
    intro e he
    obtain ⟨ab, -, hab⟩ := List.mem_filterMap.1 he
    obtain ⟨v, hv, rfl⟩ := Option.map_eq_some_iff.1 hab
    exact hv
  show tableDecode _ a b = f a b
  cases hf : f a b with
  | none =>
    refine tableDecode_eq_none fun e he hab => ?_
    have := hmem e he
    rw [hab] at this
    simp [hf] at this
  | some v =>
    refine tableDecode_of_sound (fun e he hab => ?_) ⟨((a, b), v), ?_, rfl⟩
    · have := hmem e he
      rw [hab] at this
      simpa [hf] using this.symm
    · exact List.mem_filterMap.2 ⟨(a, b), List.mem_product.2 ⟨mem_allBytes a, mem_allBytes b⟩, by simp [hf]⟩

end Sys2Proof.Laws.Config
end

