-- ==== Sys2Proof/Laws/Memory.lean ====
section
/-! SUPPORT. The laws of the image memory: its operations keep the canonical form, a read gives back what was
written there and nothing else changes, and a slice splits at any point. -/

namespace Sys2Proof.Machine

theorem Memory.reset_wf : Memory.wf State.reset.image := by decide

theorem Memory.mem_write {m : Memory} {a : Nat} {b : Byte} {c : Host.Cell} (h : c ∈ Memory.write m a b) :
    c = (a, b) ∨ c ∈ m := by
  induction m with
  | nil => simpa [Memory.write] using h
  | cons kv m ih =>
    obtain ⟨k, v⟩ := kv
    simp only [Memory.write] at h
    split at h
    · simpa using h
    · split at h
      · rcases List.mem_cons.1 h with h | h
        · exact .inl h
        · exact .inr (List.mem_cons_of_mem _ h)
      · rcases List.mem_cons.1 h with h | h
        · exact .inr (h ▸ List.mem_cons_self)
        · exact (ih h).imp_right (List.mem_cons_of_mem _)

theorem Memory.write_wf {m : Memory} (h : Memory.wf m) (a : Nat) (b : Byte) : Memory.wf (Memory.write m a b) := by
  induction m with
  | nil => simp [Memory.write]
  | cons kv m ih =>
    obtain ⟨k, v⟩ := kv
    obtain ⟨hk, hm⟩ := List.pairwise_cons.1 h
    simp only [Memory.write]
    split
    · rename_i hlt
      refine List.pairwise_cons.2 ⟨fun c hc => ?_, h⟩
      rcases List.mem_cons.1 hc with rfl | hc
      · exact hlt
      · exact lt_trans hlt (hk c hc)
    · split
      · rename_i heq
        subst heq
        exact List.pairwise_cons.2 ⟨hk, hm⟩
      · refine List.pairwise_cons.2 ⟨fun c hc => ?_, ih hm⟩
        rcases Memory.mem_write hc with rfl | hc
        · show k < a
          omega
        · exact hk c hc

theorem Memory.read_write_same (m : Memory) (a : Nat) (b : Byte) : Memory.read (Memory.write m a b) a = some b := by
  induction m with
  | nil => simp [Memory.write, Memory.read]
  | cons kv m ih =>
    obtain ⟨k, v⟩ := kv
    simp only [Memory.write]
    split
    · simp [Memory.read]
    · split
      · simp [Memory.read]
      · rename_i _ hne
        simp [Memory.read, ih, Ne.symm hne]

theorem Memory.read_write_other (m : Memory) {a a' : Nat} (h : a' ≠ a) (b : Byte) :
    Memory.read (Memory.write m a b) a' = Memory.read m a' := by
  induction m with
  | nil => simp [Memory.write, Memory.read, h.symm]
  | cons kv m ih =>
    obtain ⟨k, v⟩ := kv
    simp only [Memory.write]
    split
    · simp [Memory.read, h.symm]
    · split
      · rename_i heq
        subst heq
        simp [Memory.read, h.symm]
      · simp [Memory.read, ih]

theorem Memory.le_of_mem_ofBytes {bs : List Byte} {a : Nat} {c : Host.Cell} (h : c ∈ Memory.ofBytes a bs) :
    a ≤ c.1 := by
  induction bs generalizing a with
  | nil => simp [Memory.ofBytes] at h
  | cons b bs ih =>
    rcases List.mem_cons.1 h with rfl | h
    · exact le_refl _
    · exact le_trans (Nat.le_succ a) (ih h)

theorem Memory.ofBytes_wf (a : Nat) (bs : List Byte) : Memory.wf (Memory.ofBytes a bs) := by
  induction bs generalizing a with
  | nil => exact List.Pairwise.nil
  | cons b bs ih => exact List.pairwise_cons.2 ⟨fun _ hc => Memory.le_of_mem_ofBytes hc, ih (a + 1)⟩

/-- The byte at offset `a + i` of an image laid out from `a` is its byte `i` (R50, R53). -/
theorem Memory.read_ofBytes (a i : Nat) (bs : List Byte) : Memory.read (Memory.ofBytes a bs) (a + i) = bs[i]? := by
  induction bs generalizing a i with
  | nil => simp [Memory.ofBytes, Memory.read]
  | cons b bs ih =>
    cases i with
    | zero => simp [Memory.ofBytes, Memory.read]
    | succ i =>
      have h := ih (a + 1) i
      rw [show a + 1 + i = a + (i + 1) by omega] at h
      simp [Memory.ofBytes, Memory.read, h]

theorem loadImage_wf (bytes : List Byte) (s : State) : Memory.wf (loadImage bytes s).image := Memory.ofBytes_wf 0 bytes

@[simp] theorem Memory.slice_zero (m : Memory) (a : Nat) : Memory.slice m a 0 = some [] := by simp [Memory.slice]

/-- A slice of `n + 1` bytes is its first byte and the slice of the rest. -/
theorem Memory.slice_succ {m : Memory} {a n : Nat} {bs : List Byte} :
    Memory.slice m a (n + 1) = some bs ↔
      ∃ b t, Memory.read m a = some b ∧ Memory.slice m (a + 1) n = some t ∧ bs = b :: t := by
  simp only [Memory.slice]
  cases Memory.read m a <;> cases Memory.slice m (a + 1) n <;> simp [eq_comm]

/-- Two neighbouring slices make one. -/
theorem Memory.slice_append {m : Memory} {a k n : Nat} {xs ys : List Byte} (hx : Memory.slice m a k = some xs)
    (hy : Memory.slice m (a + k) n = some ys) : Memory.slice m a (k + n) = some (xs ++ ys) := by
  induction k generalizing a xs with
  | zero =>
    obtain rfl : [] = xs := by simpa using hx
    simpa using hy
  | succ k ih =>
    obtain ⟨b, t, hb, ht, rfl⟩ := Memory.slice_succ.1 hx
    rw [show k + 1 + n = k + n + 1 by omega]
    exact Memory.slice_succ.2 ⟨b, t ++ ys, hb, ih ht (by rwa [show a + 1 + k = a + (k + 1) by omega]), rfl⟩

theorem Memory.slice_length {m : Memory} {a n : Nat} {bs : List Byte} (h : Memory.slice m a n = some bs) :
    bs.length = n := by
  induction n generalizing a bs with
  | zero =>
    obtain rfl : [] = bs := by simpa using h
    rfl
  | succ n ih =>
    obtain ⟨b, t, -, ht, rfl⟩ := Memory.slice_succ.1 h
    simp [ih ht]

end Sys2Proof.Machine
end

