-- ==== Sys2Proof/Laws/State.lean ====
section
/-! SUPPORT. What each named update does to each field of the state, so that no later proof unfolds one. -/

namespace Sys2Proof.Machine

/-! ### emit -/

@[simp] theorem emit_state (op : TransportOp) (s : State) : (emit op s).state = s.state := rfl
@[simp] theorem emit_committedFrameIndex (op : TransportOp) (s : State) :
    (emit op s).committedFrameIndex = s.committedFrameIndex := rfl
@[simp] theorem emit_frameInPage (op : TransportOp) (s : State) : (emit op s).frameInPage = s.frameInPage := rfl
@[simp] theorem emit_crcAccumulator (op : TransportOp) (s : State) :
    (emit op s).crcAccumulator = s.crcAccumulator := rfl
@[simp] theorem emit_imageLen (op : TransportOp) (s : State) : (emit op s).imageLen = s.imageLen := rfl
@[simp] theorem emit_error (op : TransportOp) (s : State) : (emit op s).error = s.error := rfl
@[simp] theorem emit_tpHeld (op : TransportOp) (s : State) : (emit op s).tpHeld = s.tpHeld := rfl
@[simp] theorem emit_cancelReq (op : TransportOp) (s : State) : (emit op s).cancelReq = s.cancelReq := rfl
@[simp] theorem emit_image (op : TransportOp) (s : State) : (emit op s).image = s.image := rfl
@[simp] theorem emit_inputs (op : TransportOp) (s : State) : (emit op s).inputs = s.inputs := rfl
@[simp] theorem emit_trace (op : TransportOp) (s : State) : (emit op s).trace = s.trace ++ [op] := rfl
@[simp] theorem emit_params (op : TransportOp) (s : State) : (emit op s).params = s.params := rfl
@[simp] theorem emit_opResult (op : TransportOp) (s : State) : (emit op s).opResult = s.opResult := rfl
@[simp] theorem emit_probe (op : TransportOp) (s : State) : (emit op s).probe = s.probe := rfl

/-! ### zeroCursor -/

@[simp] theorem zeroCursor_state (s : State) : (zeroCursor s).state = s.state := rfl
@[simp] theorem zeroCursor_committedFrameIndex (s : State) : (zeroCursor s).committedFrameIndex = 0 := rfl
@[simp] theorem zeroCursor_frameInPage (s : State) : (zeroCursor s).frameInPage = 0 := rfl
@[simp] theorem zeroCursor_crcAccumulator (s : State) : (zeroCursor s).crcAccumulator = 0 := rfl
@[simp] theorem zeroCursor_imageLen (s : State) : (zeroCursor s).imageLen = s.imageLen := rfl
@[simp] theorem zeroCursor_error (s : State) : (zeroCursor s).error = s.error := rfl
@[simp] theorem zeroCursor_tpHeld (s : State) : (zeroCursor s).tpHeld = s.tpHeld := rfl
@[simp] theorem zeroCursor_cancelReq (s : State) : (zeroCursor s).cancelReq = s.cancelReq := rfl
@[simp] theorem zeroCursor_image (s : State) : (zeroCursor s).image = s.image := rfl
@[simp] theorem zeroCursor_inputs (s : State) : (zeroCursor s).inputs = s.inputs := rfl
@[simp] theorem zeroCursor_trace (s : State) : (zeroCursor s).trace = s.trace := rfl
@[simp] theorem zeroCursor_params (s : State) : (zeroCursor s).params = s.params := rfl
@[simp] theorem zeroCursor_opResult (s : State) : (zeroCursor s).opResult = s.opResult := rfl
@[simp] theorem zeroCursor_probe (s : State) : (zeroCursor s).probe = s.probe := rfl

/-! ### clearCrc -/

@[simp] theorem clearCrc_state (s : State) : (clearCrc s).state = s.state := rfl
@[simp] theorem clearCrc_committedFrameIndex (s : State) :
    (clearCrc s).committedFrameIndex = s.committedFrameIndex := rfl
@[simp] theorem clearCrc_frameInPage (s : State) : (clearCrc s).frameInPage = s.frameInPage := rfl
@[simp] theorem clearCrc_crcAccumulator (s : State) : (clearCrc s).crcAccumulator = 0 := rfl
@[simp] theorem clearCrc_imageLen (s : State) : (clearCrc s).imageLen = s.imageLen := rfl
@[simp] theorem clearCrc_error (s : State) : (clearCrc s).error = s.error := rfl
@[simp] theorem clearCrc_tpHeld (s : State) : (clearCrc s).tpHeld = s.tpHeld := rfl
@[simp] theorem clearCrc_cancelReq (s : State) : (clearCrc s).cancelReq = s.cancelReq := rfl
@[simp] theorem clearCrc_image (s : State) : (clearCrc s).image = s.image := rfl
@[simp] theorem clearCrc_inputs (s : State) : (clearCrc s).inputs = s.inputs := rfl
@[simp] theorem clearCrc_trace (s : State) : (clearCrc s).trace = s.trace := rfl
@[simp] theorem clearCrc_params (s : State) : (clearCrc s).params = s.params := rfl
@[simp] theorem clearCrc_opResult (s : State) : (clearCrc s).opResult = s.opResult := rfl
@[simp] theorem clearCrc_probe (s : State) : (clearCrc s).probe = s.probe := rfl

/-! ### restartPage -/

@[simp] theorem restartPage_state (s : State) : (restartPage s).state = s.state := rfl
@[simp] theorem restartPage_committedFrameIndex (s : State) :
    (restartPage s).committedFrameIndex = s.committedFrameIndex := rfl
@[simp] theorem restartPage_frameInPage (s : State) : (restartPage s).frameInPage = 0 := rfl
@[simp] theorem restartPage_crcAccumulator (s : State) : (restartPage s).crcAccumulator = 0 := rfl
@[simp] theorem restartPage_imageLen (s : State) : (restartPage s).imageLen = s.imageLen := rfl
@[simp] theorem restartPage_error (s : State) : (restartPage s).error = s.error := rfl
@[simp] theorem restartPage_tpHeld (s : State) : (restartPage s).tpHeld = s.tpHeld := rfl
@[simp] theorem restartPage_cancelReq (s : State) : (restartPage s).cancelReq = s.cancelReq := rfl
@[simp] theorem restartPage_image (s : State) : (restartPage s).image = s.image := rfl
@[simp] theorem restartPage_inputs (s : State) : (restartPage s).inputs = s.inputs := rfl
@[simp] theorem restartPage_trace (s : State) : (restartPage s).trace = s.trace := rfl
@[simp] theorem restartPage_params (s : State) : (restartPage s).params = s.params := rfl
@[simp] theorem restartPage_opResult (s : State) : (restartPage s).opResult = s.opResult := rfl
@[simp] theorem restartPage_probe (s : State) : (restartPage s).probe = s.probe := rfl

/-! ### release -/

@[simp] theorem release_state (s : State) : (release s).state = s.state := rfl
@[simp] theorem release_committedFrameIndex (s : State) :
    (release s).committedFrameIndex = s.committedFrameIndex := rfl
@[simp] theorem release_frameInPage (s : State) : (release s).frameInPage = s.frameInPage := rfl
@[simp] theorem release_crcAccumulator (s : State) : (release s).crcAccumulator = s.crcAccumulator := rfl
@[simp] theorem release_imageLen (s : State) : (release s).imageLen = s.imageLen := rfl
@[simp] theorem release_error (s : State) : (release s).error = s.error := rfl
@[simp] theorem release_tpHeld (s : State) : (release s).tpHeld = false := rfl
@[simp] theorem release_cancelReq (s : State) : (release s).cancelReq = s.cancelReq := rfl
@[simp] theorem release_image (s : State) : (release s).image = s.image := rfl
@[simp] theorem release_inputs (s : State) : (release s).inputs = s.inputs := rfl
@[simp] theorem release_trace (s : State) :
    (release s).trace = if s.tpHeld then s.trace ++ [.close] else s.trace := rfl
@[simp] theorem release_params (s : State) : (release s).params = s.params := rfl
@[simp] theorem release_opResult (s : State) : (release s).opResult = s.opResult := rfl
@[simp] theorem release_probe (s : State) : (release s).probe = s.probe := rfl

/-! ### abortEntry -/

@[simp] theorem abortEntry_state (k : ErrorKind) (s : State) : (abortEntry k s).state = .aborted := rfl
@[simp] theorem abortEntry_committedFrameIndex (k : ErrorKind) (s : State) :
    (abortEntry k s).committedFrameIndex = s.committedFrameIndex := rfl
@[simp] theorem abortEntry_frameInPage (k : ErrorKind) (s : State) :
    (abortEntry k s).frameInPage = s.frameInPage := rfl
@[simp] theorem abortEntry_crcAccumulator (k : ErrorKind) (s : State) :
    (abortEntry k s).crcAccumulator = s.crcAccumulator := rfl
@[simp] theorem abortEntry_imageLen (k : ErrorKind) (s : State) : (abortEntry k s).imageLen = s.imageLen := rfl
@[simp] theorem abortEntry_error (k : ErrorKind) (s : State) : (abortEntry k s).error = k := rfl
@[simp] theorem abortEntry_tpHeld (k : ErrorKind) (s : State) : (abortEntry k s).tpHeld = false := rfl
@[simp] theorem abortEntry_cancelReq (k : ErrorKind) (s : State) : (abortEntry k s).cancelReq = s.cancelReq := rfl
@[simp] theorem abortEntry_image (k : ErrorKind) (s : State) : (abortEntry k s).image = s.image := rfl
@[simp] theorem abortEntry_inputs (k : ErrorKind) (s : State) : (abortEntry k s).inputs = s.inputs := rfl
@[simp] theorem abortEntry_trace (k : ErrorKind) (s : State) :
    (abortEntry k s).trace = if s.tpHeld then s.trace ++ [.close] else s.trace := rfl
@[simp] theorem abortEntry_params (k : ErrorKind) (s : State) : (abortEntry k s).params = s.params := rfl
@[simp] theorem abortEntry_opResult (k : ErrorKind) (s : State) : (abortEntry k s).opResult = s.opResult := rfl
@[simp] theorem abortEntry_probe (k : ErrorKind) (s : State) : (abortEntry k s).probe = s.probe := rfl

/-! ### beginTransfer -/

@[simp] theorem beginTransfer_state (len : Nat) (s : State) : (beginTransfer len s).state = .erasing := rfl
@[simp] theorem beginTransfer_committedFrameIndex (len : Nat) (s : State) :
    (beginTransfer len s).committedFrameIndex = 0 := rfl
@[simp] theorem beginTransfer_frameInPage (len : Nat) (s : State) : (beginTransfer len s).frameInPage = 0 := rfl
@[simp] theorem beginTransfer_crcAccumulator (len : Nat) (s : State) : (beginTransfer len s).crcAccumulator = 0 := rfl
@[simp] theorem beginTransfer_imageLen (len : Nat) (s : State) : (beginTransfer len s).imageLen = len := rfl
@[simp] theorem beginTransfer_error (len : Nat) (s : State) : (beginTransfer len s).error = .none := rfl
@[simp] theorem beginTransfer_tpHeld (len : Nat) (s : State) : (beginTransfer len s).tpHeld = true := rfl
@[simp] theorem beginTransfer_cancelReq (len : Nat) (s : State) : (beginTransfer len s).cancelReq = false := rfl
@[simp] theorem beginTransfer_image (len : Nat) (s : State) : (beginTransfer len s).image = s.image := rfl
@[simp] theorem beginTransfer_inputs (len : Nat) (s : State) : (beginTransfer len s).inputs = s.inputs := rfl
@[simp] theorem beginTransfer_trace (len : Nat) (s : State) : (beginTransfer len s).trace = s.trace := rfl
@[simp] theorem beginTransfer_params (len : Nat) (s : State) : (beginTransfer len s).params = s.params := rfl
@[simp] theorem beginTransfer_opResult (len : Nat) (s : State) : (beginTransfer len s).opResult = s.opResult := rfl
@[simp] theorem beginTransfer_probe (len : Nat) (s : State) : (beginTransfer len s).probe = s.probe := rfl

/-! ### resetRegisters -/

@[simp] theorem resetRegisters_state (s : State) : (resetRegisters s).state = .idle := rfl
@[simp] theorem resetRegisters_committedFrameIndex (s : State) : (resetRegisters s).committedFrameIndex = 0 := rfl
@[simp] theorem resetRegisters_frameInPage (s : State) : (resetRegisters s).frameInPage = 0 := rfl
@[simp] theorem resetRegisters_crcAccumulator (s : State) : (resetRegisters s).crcAccumulator = 0 := rfl
@[simp] theorem resetRegisters_imageLen (s : State) : (resetRegisters s).imageLen = 0 := rfl
@[simp] theorem resetRegisters_error (s : State) : (resetRegisters s).error = .none := rfl
@[simp] theorem resetRegisters_tpHeld (s : State) : (resetRegisters s).tpHeld = false := rfl
@[simp] theorem resetRegisters_cancelReq (s : State) : (resetRegisters s).cancelReq = false := rfl
@[simp] theorem resetRegisters_image (s : State) : (resetRegisters s).image = s.image := rfl
@[simp] theorem resetRegisters_inputs (s : State) : (resetRegisters s).inputs = s.inputs := rfl
@[simp] theorem resetRegisters_trace (s : State) : (resetRegisters s).trace = s.trace := rfl
@[simp] theorem resetRegisters_params (s : State) : (resetRegisters s).params = s.params := rfl
@[simp] theorem resetRegisters_opResult (s : State) : (resetRegisters s).opResult = s.opResult := rfl
@[simp] theorem resetRegisters_probe (s : State) : (resetRegisters s).probe = s.probe := rfl

/-! ### sendFrame -/

@[simp] theorem sendFrame_state (f : Frame) (s : State) : (sendFrame f s).state = s.state := rfl
@[simp] theorem sendFrame_committedFrameIndex (f : Frame) (s : State) :
    (sendFrame f s).committedFrameIndex = s.committedFrameIndex := rfl
@[simp] theorem sendFrame_frameInPage (f : Frame) (s : State) :
    (sendFrame f s).frameInPage = nextFrameInPage s.frameInPage := rfl
@[simp] theorem sendFrame_crcAccumulator (f : Frame) (s : State) :
    (sendFrame f s).crcAccumulator = s.crcAccumulator := rfl
@[simp] theorem sendFrame_imageLen (f : Frame) (s : State) : (sendFrame f s).imageLen = s.imageLen := rfl
@[simp] theorem sendFrame_error (f : Frame) (s : State) : (sendFrame f s).error = s.error := rfl
@[simp] theorem sendFrame_tpHeld (f : Frame) (s : State) : (sendFrame f s).tpHeld = s.tpHeld := rfl
@[simp] theorem sendFrame_cancelReq (f : Frame) (s : State) : (sendFrame f s).cancelReq = s.cancelReq := rfl
@[simp] theorem sendFrame_image (f : Frame) (s : State) : (sendFrame f s).image = s.image := rfl
@[simp] theorem sendFrame_inputs (f : Frame) (s : State) : (sendFrame f s).inputs = s.inputs := rfl
@[simp] theorem sendFrame_trace (f : Frame) (s : State) : (sendFrame f s).trace = s.trace ++ [writeFrameMsg f] := rfl
@[simp] theorem sendFrame_params (f : Frame) (s : State) : (sendFrame f s).params = s.params := rfl
@[simp] theorem sendFrame_opResult (f : Frame) (s : State) : (sendFrame f s).opResult = s.opResult := rfl
@[simp] theorem sendFrame_probe (f : Frame) (s : State) : (sendFrame f s).probe = s.probe := rfl

/-! ### sendChallenge -/

@[simp] theorem sendChallenge_state (m : Bool) (f : Frame) (s : State) :
    (sendChallenge m f s).state = .awaitingPageCrc := rfl
@[simp] theorem sendChallenge_committedFrameIndex (m : Bool) (f : Frame) (s : State) :
    (sendChallenge m f s).committedFrameIndex = s.committedFrameIndex := rfl
@[simp] theorem sendChallenge_frameInPage (m : Bool) (f : Frame) (s : State) :
    (sendChallenge m f s).frameInPage = s.frameInPage := rfl
@[simp] theorem sendChallenge_crcAccumulator (m : Bool) (f : Frame) (s : State) :
    (sendChallenge m f s).crcAccumulator = s.crcAccumulator := rfl
@[simp] theorem sendChallenge_imageLen (m : Bool) (f : Frame) (s : State) :
    (sendChallenge m f s).imageLen = s.imageLen := rfl
@[simp] theorem sendChallenge_error (m : Bool) (f : Frame) (s : State) : (sendChallenge m f s).error = s.error := rfl
@[simp] theorem sendChallenge_tpHeld (m : Bool) (f : Frame) (s : State) :
    (sendChallenge m f s).tpHeld = s.tpHeld := rfl
@[simp] theorem sendChallenge_cancelReq (m : Bool) (f : Frame) (s : State) :
    (sendChallenge m f s).cancelReq = s.cancelReq := rfl
@[simp] theorem sendChallenge_image (m : Bool) (f : Frame) (s : State) : (sendChallenge m f s).image = s.image := rfl
@[simp] theorem sendChallenge_inputs (m : Bool) (f : Frame) (s : State) :
    (sendChallenge m f s).inputs = s.inputs := rfl
@[simp] theorem sendChallenge_trace (m : Bool) (f : Frame) (s : State) :
    (sendChallenge m f s).trace = s.trace ++ (if m then [lastFrameMarkMsg] else []) ++ [crcChallengeMsg s.params f] := rfl
@[simp] theorem sendChallenge_params (m : Bool) (f : Frame) (s : State) :
    (sendChallenge m f s).params = s.params := rfl
@[simp] theorem sendChallenge_opResult (m : Bool) (f : Frame) (s : State) :
    (sendChallenge m f s).opResult = s.opResult := rfl
@[simp] theorem sendChallenge_probe (m : Bool) (f : Frame) (s : State) : (sendChallenge m f s).probe = s.probe := rfl

/-! ### loadImage -/

@[simp] theorem loadImage_state (bytes : List Byte) (s : State) : (loadImage bytes s).state = s.state := rfl
@[simp] theorem loadImage_committedFrameIndex (bytes : List Byte) (s : State) :
    (loadImage bytes s).committedFrameIndex = s.committedFrameIndex := rfl
@[simp] theorem loadImage_frameInPage (bytes : List Byte) (s : State) :
    (loadImage bytes s).frameInPage = s.frameInPage := rfl
@[simp] theorem loadImage_crcAccumulator (bytes : List Byte) (s : State) :
    (loadImage bytes s).crcAccumulator = s.crcAccumulator := rfl
@[simp] theorem loadImage_imageLen (bytes : List Byte) (s : State) : (loadImage bytes s).imageLen = s.imageLen := rfl
@[simp] theorem loadImage_error (bytes : List Byte) (s : State) : (loadImage bytes s).error = s.error := rfl
@[simp] theorem loadImage_tpHeld (bytes : List Byte) (s : State) : (loadImage bytes s).tpHeld = s.tpHeld := rfl
@[simp] theorem loadImage_cancelReq (bytes : List Byte) (s : State) :
    (loadImage bytes s).cancelReq = s.cancelReq := rfl
@[simp] theorem loadImage_image (bytes : List Byte) (s : State) :
    (loadImage bytes s).image = Memory.ofBytes 0 bytes := rfl
@[simp] theorem loadImage_inputs (bytes : List Byte) (s : State) : (loadImage bytes s).inputs = s.inputs := rfl
@[simp] theorem loadImage_trace (bytes : List Byte) (s : State) : (loadImage bytes s).trace = s.trace := rfl
@[simp] theorem loadImage_params (bytes : List Byte) (s : State) : (loadImage bytes s).params = s.params := rfl
@[simp] theorem loadImage_opResult (bytes : List Byte) (s : State) : (loadImage bytes s).opResult = s.opResult := rfl
@[simp] theorem loadImage_probe (bytes : List Byte) (s : State) : (loadImage bytes s).probe = s.probe := rfl

end Sys2Proof.Machine
end

