-- ==== Sys2Proof/Laws/Ops.lean ====
section
/-! SUPPORT. One lemma per shared operation that says everything it can do: reading a frame, the rules that work on a
frame, accepting a response, and the CRC of sequences. -/

namespace Sys2Proof.Machine

/-! ## The CRC of sequences -/

@[simp] theorem crcSeq_nil (acc : Crc) : crcSeq acc [] = acc := rfl

theorem crcFold8_eq (acc : Crc) (f : Frame) : crcFold8 acc f = crcSeq acc (frameBytes f) := rfl

@[simp] theorem frameBytes_length (f : Frame) : (frameBytes f).length = 8 := rfl

theorem frameBytes_injective {f g : Frame} (h : frameBytes f = frameBytes g) : f = g := by
  cases f
  cases g
  simpa [frameBytes] using h

/-! ## Reading a frame -/

theorem imgRead_eq_some {s : State} {a : Nat} {b : Byte} :
    imgRead s a = some b ↔ a < s.imageLen ∧ Memory.read s.image a = some b := by
  unfold imgRead
  split <;> simp [*]

/-- The eight reads of a frame succeed exactly when its eight bytes are in the image, inside `image_len`. -/
theorem readFrame_eq_some {s : State} {index : Nat} {f : Frame} (h : 8 * index + 8 ≤ s.imageLen) :
    readFrame s index = some f ↔ Memory.slice s.image (8 * index) 8 = some (frameBytes f) := by
  have hr : ∀ k, k < 8 → imgRead s (byteAddr index k) = Memory.read s.image (8 * index + k) := fun k hk => by
    have : 8 * index + k < s.imageLen := by omega
    simp [imgRead, byteAddr, this]
  have e : ∀ k, 8 * index + k + 1 = 8 * index + (k + 1) := fun k => rfl
  simp only [readFrame, hr 0 (by omega), hr 1 (by omega), hr 2 (by omega), hr 3 (by omega), hr 4 (by omega),
    hr 5 (by omega), hr 6 (by omega), hr 7 (by omega), Memory.slice_succ, Memory.slice_zero]
  obtain ⟨c0, c1, c2, c3, c4, c5, c6, c7⟩ := f
  constructor
  · intro hb
    simp only [Option.bind_eq_bind, Option.bind_eq_some_iff, Option.pure_def, Option.some.injEq, Frame.mk.injEq] at hb
    obtain ⟨_, h0, _, h1, _, h2, _, h3, _, h4, _, h5, _, h6, _, h7, rfl, rfl, rfl, rfl, rfl, rfl, rfl, rfl⟩ := hb
    exact ⟨_, _, by simpa using h0, ⟨_, _, h1, ⟨_, _, h2, ⟨_, _, h3, ⟨_, _, h4, ⟨_, _, h5, ⟨_, _, h6, ⟨_, _, h7, rfl,
      rfl⟩, rfl⟩, rfl⟩, rfl⟩, rfl⟩, rfl⟩, rfl⟩, rfl⟩
  · rintro ⟨_, _, h0, ⟨_, _, h1, ⟨_, _, h2, ⟨_, _, h3, ⟨_, _, h4, ⟨_, _, h5, ⟨_, _, h6, ⟨_, _, h7, h8, rfl⟩, rfl⟩,
      rfl⟩, rfl⟩, rfl⟩, rfl⟩, rfl⟩, hf⟩
    simp only [Option.some.injEq] at h8
    subst h8
    simp only [frameBytes, List.cons.injEq, and_true] at hf
    obtain ⟨rfl, rfl, rfl, rfl, rfl, rfl, rfl, rfl⟩ := hf
    simp only [e] at h1 h2 h3 h4 h5 h6 h7
    simp at h0 h1 h2 h3 h4 h5 h6 h7
    simp [h0, h1, h2, h3, h4, h5, h6, h7]

/-- FRAME_AT gives a frame exactly when its bytes are there and inside `image_len` (R135). -/
theorem frameAt_eq_ok {s : State} {index : Nat} {f : Frame} :
    frameAt s index = .ok f ↔
      8 * index + 8 ≤ s.imageLen ∧ Memory.slice s.image (8 * index) 8 = some (frameBytes f) := by
  unfold frameAt
  split
  · rename_i h
    simp only [reduceCtorEq, false_iff, not_and]
    intro h'
    omega
  · rename_i h
    have h' : 8 * index + 8 ≤ s.imageLen := by omega
    rw [← readFrame_eq_some h']
    cases readFrame s index <;> simp [h']

/-- FRAME_AT raises exactly outside the image (R135). -/
theorem frameAt_eq_outOfRange {s : State} {index : Nat} :
    frameAt s index = .outOfRange ↔ s.imageLen < 8 * index + 8 := by
  unfold frameAt
  split
  · rename_i h
    simpa using h
  · rename_i h
    cases readFrame s index <;> simp <;> omega

theorem frameAt_depends {s t : State} (hi : s.image = t.image) (hl : s.imageLen = t.imageLen) (index : Nat) :
    frameAt s index = frameAt t index := by
  simp [frameAt, readFrame, imgRead, hi, hl]

/-- Everything a rule over a frame can do when it answers a next state. -/
theorem withFrame_next {index : Nat} {s t : State} {k : Frame → State} (h : withFrame index s k = .next t) :
    (∃ f, frameAt s index = .ok f ∧ t = k f) ∨ (frameAt s index = .outOfRange ∧ t = abortEntry .outOfRange s) := by
  unfold withFrame at h
  split at h
  · rename_i f hf
    exact .inl ⟨f, hf, by simpa using h.symm⟩
  · rename_i hf
    exact .inr ⟨hf, by simpa using h.symm⟩
  · simp at h

theorem withFrame_ok {index : Nat} {s : State} {k : Frame → State} {f : Frame} (h : frameAt s index = .ok f) :
    withFrame index s k = .next (k f) := by
  simp [withFrame, h]

/-! ## FRAME's branches -/

theorem classify_eq_midPage {s : State} :
    classify s = .midPage ↔ curIndex s + 1 ≠ totalFrames s.imageLen ∧ s.frameInPage.val ≠ 249 := by
  simp only [classify, isLast, isBoundary, isLastFrame, isPageBoundary, beq_iff_eq]
  split_ifs <;> simp [*]

theorem classify_eq_challenge {s : State} {m : Bool} :
    classify s = .challenge m ↔
      (m = true ↔ curIndex s + 1 = totalFrames s.imageLen) ∧ (m = false → s.frameInPage.val = 249) := by
  simp only [classify, isLast, isBoundary, isLastFrame, isPageBoundary, beq_iff_eq]
  split_ifs <;> cases m <;> simp [*]

/-- What FRAME does with a frame, branch by branch (R155). -/
theorem processFrame_cases (s : State) (f : Frame) :
    (classify s = .midPage ∧
      processFrame s f = sendFrame f { s with crcAccumulator := crcFold8 s.crcAccumulator f }) ∨
    (∃ m, classify s = .challenge m ∧
      processFrame s f = sendChallenge m f { s with crcAccumulator := crcFold8 s.crcAccumulator f }) := by
  unfold processFrame
  cases h : classify s with
  | midPage => exact .inl ⟨rfl, rfl⟩
  | challenge m => exact .inr ⟨m, rfl, rfl⟩

theorem nextFrameInPage_val {f : Fin 250} (h : f.val ≠ 249) : (nextFrameInPage f).val = f.val + 1 := by
  have := f.isLt
  simp only [nextFrameInPage, Fin.val_add, Fin.val_one]
  omega

/-! ## Accepting a response -/

/-- Everything accepting a start response can do (R153). -/
theorem acceptStartStatus_cases (r : List Byte) (s : State) :
    (r = [] ∧ acceptStartStatus r s = abortEntry .malformedResponse s) ∨
    (∃ b t, r = b :: t ∧ b = 0x22#8 ∧ acceptStartStatus r s = abortEntry .eraseFailed s) ∨
    (∃ b t, r = b :: t ∧ b ≠ 0x22#8 ∧ acceptStartStatus r s = { zeroCursor s with state := .transferring }) := by
  cases r with
  | nil => exact .inl ⟨rfl, rfl⟩
  | cons b t =>
    by_cases h : b = 0x22#8
    · exact .inr (.inl ⟨b, t, rfl, h, by simp [acceptStartStatus, startStatus, codeByte, h]⟩)
    · exact .inr (.inr ⟨b, t, rfl, h, by simp [acceptStartStatus, startStatus, codeByte, h]⟩)

/-- Everything accepting a CRC response can do: the retry arbiter (R160). -/
theorem acceptCrcAck_cases (r : List Byte) (s : State) :
    (decodeCrcAck s.params.byteDecode r = none ∧ acceptCrcAck r s = abortEntry .malformedResponse s) ∨
    (decodeCrcAck s.params.byteDecode r = some s.crcAccumulator ∧
      acceptCrcAck r s = { s with state := .pageAccepted }) ∨
    (∃ v, decodeCrcAck s.params.byteDecode r = some v ∧ v ≠ s.crcAccumulator ∧
      acceptCrcAck r s = { s with state := .pageRejected }) := by
  cases h : decodeCrcAck s.params.byteDecode r with
  | none => exact .inl ⟨rfl, by simp [acceptCrcAck, h]⟩
  | some v =>
    by_cases hv : v = s.crcAccumulator
    · exact .inr (.inl ⟨by rw [hv], by simp [acceptCrcAck, h, crcMatch, hv]⟩)
    · exact .inr (.inr ⟨v, rfl, hv, by simp [acceptCrcAck, h, crcMatch, hv]⟩)

end Sys2Proof.Machine
end

