-- ==== Sys2Proof/Laws/PerInstr.lean ====
section
/-! SUPPORT. One lemma per constructor of `Instr` about its encoding: a row with a header word is a TX message, its word
has the update channel and one of the nine codes, and it answers no event (spec/30_encoding.md R51, R70, R71, R105). -/

namespace Sys2Proof.Laws.HeaderFields

/-- If the row has a header word, the word's channel field is 0x600 and its code field is a listed code, and the row is
no rule that an event selects. -/
def Statement (i : Instr) : Prop :=
  ∀ h : BitVec 20, encodeHeader i = some h →
    h.extractLsb' 8 11 = 0x600#11 ∧ (codeOfByte (h.extractLsb' 0 8)).isSome = true ∧ eventOf i = none

/-- A row without a header word. -/
theorem of_none {i : Instr} (hi : encodeHeader i = none) : Statement i := fun h hh => by
  rw [hi] at hh
  exact absurd hh (by simp)

/-- A row with a header word made of the update channel and a code. -/
theorem of_word {i : Instr} {kind : Bool} {c : CommandCode} (hi : encodeHeader i = some (headerWord kind .update c))
    (he : eventOf i = none) : Statement i := fun h hh => by
  obtain rfl : headerWord kind .update c = h := by simpa [hi] using hh
  refine ⟨?_, ?_, he⟩ <;> cases kind <;> cases c <;> decide

theorem msgProgramStart : Statement .msgProgramStart := of_word rfl rfl

theorem msgWriteFrame : Statement .msgWriteFrame := of_word rfl rfl

theorem msgLastFrameMark : Statement .msgLastFrameMark := of_word rfl rfl

theorem msgCrcChallenge : Statement .msgCrcChallenge := of_word rfl rfl

theorem msgCrcOk : Statement .msgCrcOk := of_word rfl rfl

theorem msgCrcFail : Statement .msgCrcFail := of_word rfl rfl

theorem msgProgramEnd : Statement .msgProgramEnd := of_word rfl rfl

theorem rspStartStatus (r : List Byte) : Statement (.rspStartStatus r) := of_none rfl

theorem rspCrcAck (r : List Byte) : Statement (.rspCrcAck r) := of_none rfl

theorem crcUpdate (acc : Crc) (byte : Byte) : Statement (.crcUpdate acc byte) := of_none rfl

theorem crcBitstep (acc : Crc) : Statement (.crcBitstep acc) := of_none rfl

theorem crcClear : Statement .crcClear := of_none rfl

theorem crcFold8 (acc : Crc) (frame : Frame) : Statement (.crcFold8 acc frame) := of_none rfl

theorem crcSeq (acc : Crc) (bytes : List Byte) : Statement (.crcSeq acc bytes) := of_none rfl

theorem byteAddr (index : Nat) (k : BitVec 3) : Statement (.byteAddr index k) := of_none rfl

theorem totalFrames (imageLen : Nat) : Statement (.totalFrames imageLen) := of_none rfl

theorem isLastFrame (index : Nat) (imageLen : Nat) : Statement (.isLastFrame index imageLen) := of_none rfl

theorem isPageBoundary (frameInPage : BitVec 8) : Statement (.isPageBoundary frameInPage) := of_none rfl

theorem frameAt (index : Nat) : Statement (.frameAt index) := of_none rfl

theorem curIndex : Statement .curIndex := of_none rfl

theorem classify : Statement .classify := of_none rfl

theorem start (len : Nat) : Statement (.start len) := of_none rfl

theorem startBusy (len : Nat) : Statement (.startBusy len) := of_none rfl

theorem eraseResp (r : List Byte) : Statement (.eraseResp r) := of_none rfl

theorem eraseTmo : Statement .eraseTmo := of_none rfl

theorem frame : Statement .frame := of_none rfl

theorem frameCancel : Statement .frameCancel := of_none rfl

theorem crcResp (r : List Byte) : Statement (.crcResp r) := of_none rfl

theorem crcTmo : Statement .crcTmo := of_none rfl

theorem pageAccept : Statement .pageAccept := of_none rfl

theorem pageReject : Statement .pageReject := of_none rfl

theorem complete : Statement .complete := of_none rfl

theorem cancel : Statement .cancel := of_none rfl

theorem reset : Statement .reset := of_none rfl

end Sys2Proof.Laws.HeaderFields
end

