-- ==== Sys2Proof/Laws/Step.lean ====
section
/-! SUPPORT. What a step can do, said once: what fetching answers, what every instruction leaves alone, and `Moves`, the
list of all that a step with no probe can do to a state. Invariants are proved by cases over `Moves`. -/

namespace Sys2Proof.Machine

open Sys2Proof.Safety

/-- The abort entry that the meanings take is the one that statements write out (R200). -/
theorem abortEntry_eq_abortedFrom (k : ErrorKind) (s : State) : abortEntry k s = abortedFrom s k := rfl

/-! ## Outcomes -/

/-- No instruction faults: only fetching does. -/
theorem exec_ne_fault (i : Instr) (s : State) (f : Fault) : exec i s ≠ .fault f := by
  have hw : ∀ (index : Nat) (k : Frame → State), withFrame index s k ≠ .fault f := fun index k => by
    unfold withFrame
    split <;> simp
  cases i <;>
    simp only [exec, execMsgProgramStart, execMsgWriteFrame, execMsgLastFrameMark, execMsgCrcChallenge, execMsgCrcOk,
      execMsgCrcFail, execMsgProgramEnd, execRspStartStatus, execRspCrcAck, execCrcUpdate, execCrcBitstep, execCrcClear,
      execCrcFold8, execCrcSeq, execByteAddr, execTotalFrames, execIsLastFrame, execIsPageBoundary, execFrameAt,
      execCurIndex, execClassify, execStart, execStartBusy, execEraseResp, execEraseTmo, execFrame, execFrameCancel,
      execCrcResp, execCrcTmo, execPageAccept, execPageReject, execComplete, execCancel, execReset, answer, ne_eq] <;>
    (try split_ifs) <;> first | exact hw _ _ | simp

/-! ## What no instruction touches -/

/-- The parts of the state that no rule writes: the image (R52, R61), the inputs, the parameters (R33) and the
probe. -/
def sameSurroundings (s t : State) : Prop :=
  t.image = s.image ∧ t.inputs = s.inputs ∧ t.params = s.params ∧ t.probe = s.probe

theorem sameSurroundings_refl (s : State) : sameSurroundings s s := ⟨rfl, rfl, rfl, rfl⟩

theorem abortEntry_sameSurroundings (k : ErrorKind) (s : State) : sameSurroundings s (abortEntry k s) :=
  ⟨rfl, rfl, rfl, rfl⟩

theorem withFrame_sameSurroundings {index : Nat} {s t : State} {k : Frame → State}
    (hk : ∀ f, sameSurroundings s (k f)) (h : withFrame index s k = .next t) : sameSurroundings s t := by
  rcases withFrame_next h with ⟨f, -, rfl⟩ | ⟨-, rfl⟩
  · exact hk f
  · exact abortEntry_sameSurroundings _ _

theorem processFrame_sameSurroundings (s : State) (f : Frame) : sameSurroundings s (processFrame s f) := by
  rcases processFrame_cases s f with ⟨-, h⟩ | ⟨m, -, h⟩ <;> rw [h] <;> exact ⟨rfl, rfl, rfl, rfl⟩

theorem acceptStartStatus_sameSurroundings (r : List Byte) (s : State) :
    sameSurroundings s (acceptStartStatus r s) := by
  rcases acceptStartStatus_cases r s with ⟨-, h⟩ | ⟨_, _, -, -, h⟩ | ⟨_, _, -, -, h⟩ <;> rw [h] <;>
    exact ⟨rfl, rfl, rfl, rfl⟩

theorem acceptCrcAck_sameSurroundings (r : List Byte) (s : State) : sameSurroundings s (acceptCrcAck r s) := by
  rcases acceptCrcAck_cases r s with ⟨-, h⟩ | ⟨-, h⟩ | ⟨_, -, -, h⟩ <;> rw [h] <;> exact ⟨rfl, rfl, rfl, rfl⟩

theorem exec_sameSurroundings {i : Instr} {s t : State} (h : exec i s = .next t) : sameSurroundings s t := by
  cases i
  case msgWriteFrame =>
    simp only [exec, execMsgWriteFrame] at h
    refine withFrame_sameSurroundings ?_ h
    exact fun _ => ⟨rfl, rfl, rfl, rfl⟩
  case msgCrcChallenge =>
    simp only [exec, execMsgCrcChallenge] at h
    refine withFrame_sameSurroundings ?_ h
    exact fun _ => ⟨rfl, rfl, rfl, rfl⟩
  case frameAt =>
    simp only [exec, execFrameAt] at h
    refine withFrame_sameSurroundings ?_ h
    exact fun _ => ⟨rfl, rfl, rfl, rfl⟩
  case frame =>
    simp only [exec, execFrame] at h
    split at h
    · exact withFrame_sameSurroundings (processFrame_sameSurroundings s) h
    · simp at h
  case eraseResp r =>
    simp only [exec, execEraseResp] at h
    split at h
    · obtain rfl : acceptStartStatus r s = t := by simpa using h
      exact acceptStartStatus_sameSurroundings r s
    · simp at h
  case rspStartStatus r =>
    simp only [exec, execRspStartStatus] at h
    split at h
    · obtain rfl : acceptStartStatus r s = t := by simpa using h
      exact acceptStartStatus_sameSurroundings r s
    · simp at h
  case crcResp r =>
    simp only [exec, execCrcResp] at h
    split at h
    · obtain rfl : acceptCrcAck r s = t := by simpa using h
      exact acceptCrcAck_sameSurroundings r s
    · simp at h
  case rspCrcAck r =>
    simp only [exec, execRspCrcAck] at h
    split at h
    · obtain rfl : acceptCrcAck r s = t := by simpa using h
      exact acceptCrcAck_sameSurroundings r s
    · simp at h
  all_goals
    simp only [exec, execMsgProgramStart, execMsgLastFrameMark, execMsgCrcOk,
      execMsgCrcFail, execMsgProgramEnd, execCrcUpdate, execCrcBitstep, execCrcClear,
      execCrcFold8, execCrcSeq, execByteAddr, execTotalFrames, execIsLastFrame, execIsPageBoundary,
      execCurIndex, execClassify, execStart, execStartBusy, execEraseTmo, execFrameCancel,
      execCrcTmo, execPageAccept, execPageReject, execComplete, execCancel, execReset, answer] at h
    (try split_ifs at h) <;> (obtain rfl := Host.Outcome.next.inj h; exact ⟨rfl, rfl, rfl, rfl⟩)

/-! ## Fetching -/

theorem accept_eq_run {i j : Instr} {s s' : State} :
    accept i s = .run j s' ↔ wellFormed s.params i = true ∧ j = i ∧ s' = s := by
  unfold accept
  split <;> simp [*, eq_comm]

theorem accept_ne_pass {i : Instr} {s s' : State} : accept i s ≠ .pass s' := by
  unfold accept
  split <;> simp

theorem accept_ne_stuck {i : Instr} {s : State} {f : Fault} : accept i s ≠ .stuck f := by
  unfold accept
  split <;> simp

theorem selectInternal_wellFormed {st : ProtoState} {c : Bool} {i : Instr} (p : Params)
    (h : selectInternal st c = some i) : wellFormed p i = true := by
  cases st <;> cases c <;> simp [selectInternal] at h <;> subst h <;> rfl

/-- What a delivered event comes to. -/
theorem deliver_cases (e : Event) (s : State) :
    (∃ i, selectRule s.state s.cancelReq e = some i ∧ deliver e s = accept i s) ∨
    (selectRule s.state s.cancelReq e = none ∧ e = .internal ∧ deliver e s = .pass s) ∨
    (selectRule s.state s.cancelReq e = none ∧ e ≠ .internal ∧ deliver e s = .refuse .noRequestOutstanding) := by
  unfold deliver
  cases h : selectRule s.state s.cancelReq e with
  | some i => exact .inl ⟨i, rfl, rfl⟩
  | none => by_cases he : e = .internal <;> simp [he]

/-- The state in which what is fetched runs when no probe stands: the event taken is gone from the inputs. -/
def taken (s : State) : State := { s with inputs := s.inputs.tail }

/-- The event of the next step when no probe stands: the oldest input, else the block's own turn. -/
def nextEvent (s : State) : Event := s.inputs.headD .internal

@[simp] theorem taken_state (s : State) : (taken s).state = s.state := rfl
@[simp] theorem taken_cancelReq (s : State) : (taken s).cancelReq = s.cancelReq := rfl
@[simp] theorem taken_params (s : State) : (taken s).params = s.params := rfl

theorem taken_of_nil {s : State} (h : s.inputs = []) : taken s = s := by
  cases s
  subst h
  rfl

/-- A step without a probe that answers a next state runs the rule selected for the next event, or is a turn the
block has no use for. -/
theorem step_next_cases {s t : State} (hp : s.probe = none) (h : step s = .next t) :
    (∃ i, selectRule s.state s.cancelReq (nextEvent s) = some i ∧ wellFormed s.params i = true ∧
      exec i (taken s) = .next t) ∨
    (nextEvent s = .internal ∧ t = taken s) := by
  unfold step fetch at h
  rw [hp] at h
  cases hin : s.inputs with
  | nil =>
    rw [hin] at h
    simp only at h
    cases hsel : selectInternal s.state s.cancelReq with
    | none => simp [hsel] at h
    | some i =>
      rw [hsel] at h
      have hw := selectInternal_wellFormed s.params hsel
      simp only [accept, hw, if_true] at h
      exact .inl ⟨i, by simpa [nextEvent, hin, selectRule] using hsel, hw, by rwa [taken_of_nil hin]⟩
  | cons e rest =>
    rw [hin] at h
    simp only at h
    rw [show ({ s with inputs := rest, probe := none } : State) = taken s by simp [taken, hin, ← hp]] at h
    have he : nextEvent s = e := by simp [nextEvent, hin]
    rcases deliver_cases e (taken s) with ⟨i, hsel, hd⟩ | ⟨-, hi, hd⟩ | ⟨-, -, hd⟩
    · rw [hd] at h
      unfold accept at h
      split at h
      · rename_i hw
        split_ifs at hw with hw'
        · obtain ⟨rfl, rfl⟩ := Fetched.run.inj hw
          exact .inl ⟨_, he ▸ hsel, hw', h⟩
      · rename_i hw
        split_ifs at hw
      · simp at h
      · simp at h
    · rw [hd] at h
      exact .inr ⟨he ▸ hi, by simpa using h.symm⟩
    · rw [hd] at h
      simp at h

/-! ## All that a step can do -/

/-- What one rule, or a turn passed, does to a state: one constructor per outcome of the rules of
spec/42_state_machine.md. -/
inductive Moves (s : State) : State → Prop where
  /-- Nothing happens: a turn passed, START.BUSY, or a CANCEL that is not recorded. -/
  | stay : Moves s s
  | startMisaligned (h : s.state = .idle) : Moves s { s with error := .imageNotFrameAligned }
  | startEmpty (h : s.state = .idle) : Moves s { s with error := .imageEmpty }
  | startAccepted (len : Nat) (h : s.state = .idle) (ha : len % 8 = 0) (hl : totalFrames len ≠ 0)
      (hw : len < 2 ^ s.params.addrW) :
      Moves s (emit (programStartMsg s.params) (emit .connect (beginTransfer len s)))
  | abort (k : ErrorKind) (h : s.state = .erasing ∨ s.state = .transferring ∨ s.state = .awaitingPageCrc)
      (hk : abortKind k) : Moves s (abortEntry k s)
  | eraseDone (h : s.state = .erasing) : Moves s { zeroCursor s with state := .transferring }
  | frameSent (f : Frame) (h : s.state = .transferring) (hc : s.cancelReq = false)
      (hf : frameAt s (curIndex s) = .ok f) (hm : classify s = .midPage) :
      Moves s (sendFrame f { s with crcAccumulator := crcFold8 s.crcAccumulator f })
  | challengeSent (f : Frame) (m : Bool) (h : s.state = .transferring) (hc : s.cancelReq = false)
      (hf : frameAt s (curIndex s) = .ok f) (hm : classify s = .challenge m) :
      Moves s (sendChallenge m f { s with crcAccumulator := crcFold8 s.crcAccumulator f })
  | crcEqual (r : List Byte) (h : s.state = .awaitingPageCrc)
      (hd : decodeCrcAck s.params.byteDecode r = some s.crcAccumulator) : Moves s { s with state := .pageAccepted }
  | crcUnequal (r : List Byte) (v : Crc) (h : s.state = .awaitingPageCrc)
      (hd : decodeCrcAck s.params.byteDecode r = some v) (hv : v ≠ s.crcAccumulator) :
      Moves s { s with state := .pageRejected }
  | pageAccepted (h : s.state = .pageAccepted) :
      Moves s { restartPage (emit (crcOkMsg s.params) s) with
        committedFrameIndex := committedAfter s
        state := if allConsumed (committedAfter s) s.imageLen then .completing else .transferring }
  | pageRejected (h : s.state = .pageRejected) :
      Moves s { restartPage (emit (crcFailMsg s.params) s) with state := .transferring }
  | completed (h : s.state = .completing) :
      Moves s { emit .close (emit (programEndMsg s.params) s) with tpHeld := false, state := .done }
  | cancelRecorded (h : holdsTransport s.state) : Moves s { s with cancelReq := true }
  | wasReset (h : s.tpHeld = false) : Moves s (resetRegisters s)

theorem cancellable_iff (st : ProtoState) : cancellable st = true ↔ holdsTransport st := by
  cases st <;> simp [cancellable, holdsTransport]

/-- What the rule selected for an event can do. -/
theorem rule_moves {s t : State} {e : Event} {i : Instr} (hsel : selectRule s.state s.cancelReq e = some i)
    (hw : wellFormed s.params i = true) (h : exec i s = .next t) : Moves s t := by
  have hcrc : ∀ r, s.state = .awaitingPageCrc → Moves s (acceptCrcAck r s) := fun r hs => by
    rcases acceptCrcAck_cases r s with ⟨-, he⟩ | ⟨hd, he⟩ | ⟨v, hd, hv, he⟩ <;> rw [he]
    · exact .abort _ (by simp [hs]) (by simp [abortKind])
    · exact .crcEqual r hs hd
    · exact .crcUnequal r v hs hd hv
  have herase : ∀ r, s.state = .erasing → Moves s (acceptStartStatus r s) := fun r hs => by
    rcases acceptStartStatus_cases r s with ⟨-, he⟩ | ⟨_, _, -, -, he⟩ | ⟨_, _, -, -, he⟩ <;> rw [he]
    · exact .abort _ (by simp [hs]) (by simp [abortKind])
    · exact .abort _ (by simp [hs]) (by simp [abortKind])
    · exact .eraseDone hs
  cases e with
  | start len =>
    simp only [selectRule, Option.some.injEq] at hsel
    split at hsel
    · rename_i hs
      subst hsel
      simp only [exec, execStart] at h
      split_ifs at h with h0 h1 h2 <;> obtain rfl := Host.Outcome.next.inj h
      · exact .stay
      · exact .startMisaligned hs
      · exact .startEmpty hs
      · exact .startAccepted len hs (by simpa using h1) h2 (by simpa [wellFormed, fitsAddr] using hw)
    · rename_i hs
      subst hsel
      simp only [exec, execStartBusy, ne_eq, hs, not_false_eq_true, if_true] at h
      obtain rfl := Host.Outcome.next.inj h
      exact .stay
  | cancel =>
    obtain rfl : Instr.cancel = i := by simpa [selectRule] using hsel
    simp only [exec, execCancel] at h
    obtain rfl := Host.Outcome.next.inj h
    split
    · rename_i hc
      exact .cancelRecorded ((cancellable_iff _).1 hc)
    · exact .stay
  | reset =>
    obtain rfl : Instr.reset = i := by simpa [selectRule] using hsel
    simp only [exec, execReset] at h
    split_ifs at h with hh
    obtain rfl := Host.Outcome.next.inj h
    exact .wasReset (by simpa using hh)
  | rsp r =>
    cases hs : s.state <;> simp only [selectRule, selectResult, hs, Option.some.injEq, reduceCtorEq] at hsel <;>
      subst hsel
    · simp only [exec, execEraseResp, hs, if_true] at h
      obtain rfl := Host.Outcome.next.inj h
      exact herase r hs
    · simp only [exec, execCrcResp, hs, if_true] at h
      obtain rfl := Host.Outcome.next.inj h
      exact hcrc r hs
  | tmo =>
    cases hs : s.state <;> simp only [selectRule, selectResult, hs, Option.some.injEq, reduceCtorEq] at hsel <;>
      subst hsel
    · simp only [exec, execEraseTmo, hs, if_true] at h
      obtain rfl := Host.Outcome.next.inj h
      exact .abort _ (by simp [hs]) (by simp [abortKind])
    · simp only [exec, execCrcTmo, hs, if_true] at h
      obtain rfl := Host.Outcome.next.inj h
      exact .abort _ (by simp [hs]) (by simp [abortKind])
  | internal =>
    cases hs : s.state <;> simp only [selectRule, selectInternal, hs, Option.some.injEq, reduceCtorEq] at hsel
    · cases hc : s.cancelReq <;> simp only [hc, if_true, if_false, Bool.false_eq_true] at hsel <;> subst hsel
      · simp only [exec, execFrame, hs, hc, and_self, if_true] at h
        rcases withFrame_next h with ⟨f, hf, rfl⟩ | ⟨-, rfl⟩
        · rcases processFrame_cases s f with ⟨hm, he⟩ | ⟨m, hm, he⟩ <;> rw [he]
          · exact .frameSent f hs hc hf hm
          · exact .challengeSent f m hs hc hf hm
        · exact .abort _ (by simp [hs]) (by simp [abortKind])
      · simp only [exec, execFrameCancel, hs, hc, and_self, if_true] at h
        obtain rfl := Host.Outcome.next.inj h
        exact .abort _ (by simp [hs]) (by simp [abortKind])
    · subst hsel
      simp only [exec, execPageAccept, hs, if_true] at h
      obtain rfl := Host.Outcome.next.inj h
      exact .pageAccepted hs
    · subst hsel
      simp only [exec, execPageReject, hs, if_true] at h
      obtain rfl := Host.Outcome.next.inj h
      exact .pageRejected hs
    · subst hsel
      simp only [exec, execComplete, hs, if_true] at h
      obtain rfl := Host.Outcome.next.inj h
      exact .completed hs

/-- All that a step without a probe can do. -/
theorem step_moves {s t : State} (hp : s.probe = none) (h : step s = .next t) : Moves (taken s) t := by
  rcases step_next_cases hp h with ⟨i, hsel, hw, hx⟩ | ⟨-, rfl⟩
  · exact rule_moves (s := taken s) hsel hw hx
  · exact .stay

end Sys2Proof.Machine
end

