-- ==== Sys2Proof/Tests/Slice0.lean ====
section
/-! SUPPORT. Tests whose expected results are the vectors of spec/95_test_vectors.md (named V-… and P…) and the encodings
of spec/30_encoding.md written out bit by bit, the smoke test of `wellFormed`, and for every statement with hypotheses
a state and operands that meet them. -/

namespace Sys2Proof.Tests

open Sys2Proof.Machine Sys2Proof.Safety

/-! ## Helpers -/

/-- The reference parameters (R6): every marker has length 4. -/
def refParams : Params where
  addrW := 32
  startExtra := 1
  okExtra := 1
  failExtra := 1
  endExtra := 1
  startTimeout := 100
  crcTimeout := 200
  byteDecode := .asciiHex

/-- Frames 0 and 1 of the 16-byte image `00 .. 0F`. -/
def frame0 : Frame := ⟨0x00, 0x01, 0x02, 0x03, 0x04, 0x05, 0x06, 0x07⟩
def frame1 : Frame := ⟨0x08, 0x09, 0x0A, 0x0B, 0x0C, 0x0D, 0x0E, 0x0F⟩

/-- The block after reset with the reference parameters and the 16-byte image. -/
def base : State := { loadImage (frameBytes frame0 ++ frameBytes frame1) State.reset with params := refParams }

/-- The block in a transfer of `len` bytes, at a cursor and with an accumulator. -/
def during (st : ProtoState) (len c : Nat) (f : Fin 250) (crc : Crc) : State :=
  { base with
    state := st
    committedFrameIndex := c
    frameInPage := f
    crcAccumulator := crc
    imageLen := len
    tpHeld := true }

/-- The block after a transfer. -/
def after (st : ProtoState) (k : ErrorKind) : State := { base with state := st, imageLen := 16, error := k }

/-- One event to come. -/
def given (e : Event) (s : State) : State := { s with inputs := [e] }

/-- The next state, if there is one. -/
def nextOf : Host.Outcome State Fault Refusal → Option State
  | .next t => some t
  | .fault _ => none
  | .refused _ => none

/-- The refusal, if it is one. -/
def refusalOf : Host.Outcome State Fault Refusal → Option Refusal
  | .next _ => none
  | .fault _ => none
  | .refused r => some r

/-- The fault, if it is one. -/
def faultOf : Host.Outcome State Fault Refusal → Option Fault
  | .next _ => none
  | .fault f => some f
  | .refused _ => none

/-- What a test of a rule looks at: the state, the cursor, the accumulator, the error, `tp_held`, and what was
emitted. -/
structure Seen where
  state : ProtoState
  cursor : Nat × Nat
  crc : Crc
  error : ErrorKind
  held : Bool
  emitted : List TransportOp
  deriving DecidableEq, Repr

/-- A next state as a test sees it. -/
def seen (o : Host.Outcome State Fault Refusal) : Option Seen :=
  (nextOf o).map fun t => {
    state := t.state
    cursor := (t.committedFrameIndex, t.frameInPage.val)
    crc := t.crcAccumulator
    error := t.error
    held := t.tpHeld
    emitted := t.trace }

/-- What a pure operation answers. -/
def answerOf (i : Instr) (s : State) : Option OpResult := (nextOf (exec i s)).map State.opResult

/-- What a message emits, as lines of the notation of R108. -/
def linesOf (i : Instr) (s : State) : Option (List (List Char)) := (nextOf (exec i s)).map fun t => t.trace.map renderOp

/-! ## Encodings -/

/-- MSG.PROGRAM_START (R96): kind 1, channel 110 0000 0000, code 0000 0101; the bytes least significant first. -/
theorem test_decode_program_start :
    decodeHeader [0b00000101, 0b00000000, 0b00001110, 0x05] = .instr .msgProgramStart [0x05] := by decide
/-- MSG.WRITE_FRAME (R97): kind 0, code 0000 1000. -/
theorem test_decode_write_frame : decodeHeader [0b00001000, 0b00000000, 0b00000110] = .instr .msgWriteFrame [] := by decide
/-- MSG.LAST_FRAME_MARK (R98): kind 0, code 0000 0100. -/
theorem test_decode_last_frame_mark :
    decodeHeader [0b00000100, 0b00000000, 0b00000110] = .instr .msgLastFrameMark [] := by decide
/-- MSG.CRC_CHALLENGE (R99): kind 1, code 0000 1000. -/
theorem test_decode_crc_challenge :
    decodeHeader [0b00001000, 0b00000000, 0b00001110] = .instr .msgCrcChallenge [] := by decide
/-- MSG.CRC_OK (R100): kind 0, code 0000 0011. -/
theorem test_decode_crc_ok : decodeHeader [0b00000011, 0b00000000, 0b00000110] = .instr .msgCrcOk [] := by decide
/-- MSG.CRC_FAIL (R101): kind 0, code 0000 0111. -/
theorem test_decode_crc_fail : decodeHeader [0b00000111, 0b00000000, 0b00000110] = .instr .msgCrcFail [] := by decide
/-- MSG.PROGRAM_END (R102): kind 0, code 0000 0010. -/
theorem test_decode_program_end : decodeHeader [0b00000010, 0b00000000, 0b00000110] = .instr .msgProgramEnd [] := by decide

/-- R105, R106: SEND_STATUS, the two codes that are no code field, an unlisted code, and a listed code with the other
kind. -/
theorem test_decode_rejects_codes :
    decodeHeader [0x00, 0x00, 0x06] = .rejected .reservedCode ∧
      decodeHeader [0x22, 0x00, 0x06] = .rejected (.notACodeField .eraseFailed) ∧
      decodeHeader [0xCC, 0x00, 0x0E] = .rejected (.notACodeField .programEnd) ∧
      decodeHeader [0x06, 0x00, 0x06] = .rejected (.unlistedCode 0x06) ∧
      decodeHeader [0x03, 0x00, 0x0E] = .rejected (.wrongKind .crcSucceeded) := by decide

/-- R51, R70, R71: channel 0x601, another channel, a bit above bit 19, too few bytes. -/
theorem test_decode_rejects_words :
    decodeHeader [0x08, 0x01, 0x06] = .rejected .channelNeverSent ∧
      decodeHeader [0x08, 0x02, 0x06] = .rejected (.noSuchChannel 0x602) ∧
      decodeHeader [0x08, 0x00, 0x16] = .rejected .highBitsSet ∧
      decodeHeader [0x08, 0x00] = .rejected .tooShort := by decide

/-- The selection of R150 in the two states that answer a transport result, and where it has a dash (R81). -/
theorem test_select :
    selectRule .erasing false (.rsp [0x22]) = some (.eraseResp [0x22]) ∧
      selectRule .awaitingPageCrc true .tmo = some .crcTmo ∧ selectRule .transferring true .internal = some .frameCancel ∧
      selectRule .pageAccepted false (.rsp []) = none ∧ selectRule .done false .internal = none := by decide

/-! ## Well-formed terms -/

/-- Each check of `wellFormed` refuses an ill-formed term, and the value next to it passes. -/
theorem test_wellformed_refuses :
    wellFormed refParams (.start (2 ^ 32)) = false ∧ wellFormed refParams (.start (2 ^ 32 - 8)) = true ∧
      wellFormed refParams (.startBusy (2 ^ 32)) = false ∧ wellFormed refParams (.totalFrames (2 ^ 32)) = false ∧
      wellFormed refParams (.byteAddr (2 ^ 29) 0) = false ∧ wellFormed refParams (.byteAddr (2 ^ 29 - 1) 7) = true ∧
      wellFormed refParams (.isLastFrame (2 ^ 29) 16) = false ∧ wellFormed refParams (.isLastFrame 0 (2 ^ 32)) = false ∧
      wellFormed refParams (.frameAt (2 ^ 29)) = false := by decide

/-- A response has at most eight bytes (R72). -/
theorem test_wellformed_refuses_payloads :
    wellFormed refParams (.eraseResp (rep 0 9)) = false ∧ wellFormed refParams (.crcResp (rep 0 9)) = false ∧
      wellFormed refParams (.rspStartStatus (rep 0 9)) = false ∧ wellFormed refParams (.rspCrcAck (rep 0 9)) = false ∧
      wellFormed refParams (.crcResp (rep 0 8)) = true := by decide

/-! ## The messages -/

/-- V-MSG-1, R96. -/
theorem test_msg_program_start :
    linesOf .msgProgramStart base = some ["REQ 600 05 [05 05 05 05] -> 600".toList] := by decide
/-- R97's example; V-CHK-7. -/
theorem test_msg_write_frame :
    linesOf .msgWriteFrame (during .transferring 16 0 0 0) = some ["SND 600 08 [00 01 02 03 04 05 06 07]".toList] := by
  decide
/-- V-MSG-6. -/
theorem test_msg_last_frame_mark : linesOf .msgLastFrameMark base = some ["SND 600 04 [04 04 04 04]".toList] := by decide
/-- R99's example. -/
theorem test_msg_crc_challenge : linesOf .msgCrcChallenge (during .transferring 16 0 1 0x26B3) =
    some ["REQ 600 08 [08 09 0A 0B 0C 0D 0E 0F] -> 601".toList] := by decide
/-- R100's example. -/
theorem test_msg_crc_ok : linesOf .msgCrcOk base = some ["SND 600 03 [03 03 03 03]".toList] := by decide
/-- R101's example. -/
theorem test_msg_crc_fail : linesOf .msgCrcFail base = some ["SND 600 07 [07 07 07 07]".toList] := by decide
/-- V-MSG-7, N_END = 3 and 7. -/
theorem test_msg_program_end :
    linesOf .msgProgramEnd { base with params := { refParams with endExtra := 0 } } =
        some ["SND 600 02 [CC CC CC]".toList] ∧
      linesOf .msgProgramEnd { base with params := { refParams with endExtra := 4 } } =
        some ["SND 600 02 [CC CC CC CC CC CC CC]".toList] := by decide
/-- V-MSG-14 through the row RSP.START_STATUS: `00 22` proceeds. -/
theorem test_rsp_start_status :
    (nextOf (exec (.rspStartStatus [0x00, 0x22]) (during .erasing 16 0 0 0))).map State.state = some .transferring := by
  decide
/-- V-MSG-11 through the row RSP.CRC_ACK: five bytes suffice and offset 2 is ignored. -/
theorem test_rsp_crc_ack :
    (nextOf (exec (.rspCrcAck [0x35, 0x31, 0xFF, 0x33, 0x44]) (during .awaitingPageCrc 16 0 1 0x513D))).map State.state =
      some .pageAccepted := by decide
/-- V-MSG-8 and V-MSG-9. -/
theorem test_byte_decode_ref :
    byteDecodeRef 0x35 0x31 = some 0x51 ∧ byteDecodeRef 0x33 0x44 = some 0x3D ∧ byteDecodeRef 0x33 0x64 = some 0x3D ∧
      byteDecodeRef 0x47 0x30 = none ∧ byteDecodeRef 0x20 0x31 = none ∧ byteDecodeRef 0x00 0x00 = none := by decide
/-- R109's expansion as program P4 writes it: `CRCRSP 4D2B`. -/
theorem test_crcrsp :
    renderEvent (.rsp (crcRspPayload 0x4D2B)) = some "RSP [34 44 20 32 42 00 00 00]".toList := by decide
/-- `START 16d` and `WRITES 0..1` (R108, R109). -/
theorem test_notation :
    renderEvent (.start 16) = some "START 16d".toList ∧
      writesOps (during .transferring 16 0 0 0) 0 1 = [writeFrameMsg frame0, writeFrameMsg frame1] ∧
      writesOps (during .transferring 16 0 0 0) 1 0 = [] := by decide

/-! ## The CRC engine -/

/-- V-CRC-3, V-CRC-12. -/
theorem test_crc_update : answerOf (.crcUpdate 0x0000 0x80) base = some (.crc 0x9188) ∧
    answerOf (.crcUpdate 0x1234 0x56) base = some (.crc 0x3C40) := by decide
/-- V-CRC-5, V-CRC-9. -/
theorem test_crc_update_accumulator : answerOf (.crcUpdate 0xFFFF 0x00) base = some (.crc 0xE1F0) ∧
    answerOf (.crcUpdate 0x0001 0x00) base = some (.crc 0x0100) := by decide
/-- V-CRC-16, V-CRC-17, V-CRC-18. -/
theorem test_crc_bitstep : answerOf (.crcBitstep 0x8000) base = some (.crc 0x1021) ∧
    answerOf (.crcBitstep 0x4000) base = some (.crc 0x8000) ∧
    answerOf (.crcBitstep 0xFFFF) base = some (.crc 0xEFDF) := by decide
/-- R113. -/
theorem test_crc_clear :
    (nextOf (exec .crcClear (during .transferring 16 0 1 0x26B3))).map State.crcAccumulator = some 0x0000 := by decide
/-- V-CRC-22, V-CRC-23. -/
theorem test_crc_fold8 : answerOf (.crcFold8 0x0000 frame0) base = some (.crc 0x26B3) ∧
    answerOf (.crcFold8 0x26B3 frame1) base = some (.crc 0x513D) := by decide +kernel
/-- V-CRC-27, the first frame of program P5. -/
theorem test_crc_fold8_p5 : answerOf (.crcFold8 0x0000 ⟨0xDE, 0xAD, 0xBE, 0xEF, 0x01, 0x02, 0x03, 0x04⟩) base =
    some (.crc 0xAF08) := by decide +kernel
/-- V-CRC-20, the ASCII digits. -/
theorem test_crc_seq : answerOf (.crcSeq 0x0000 [0x31, 0x32, 0x33, 0x34, 0x35, 0x36, 0x37, 0x38, 0x39]) base =
    some (.crc 0x31C3) := by decide +kernel
/-- V-CRC-14, V-CRC-15: order matters. -/
theorem test_crc_seq_order : answerOf (.crcSeq 0x0000 [0x41, 0x42]) base = some (.crc 0x567B) ∧
    answerOf (.crcSeq 0x0000 [0x42, 0x41]) base = some (.crc 0x334B) := by decide +kernel

/-! ## The chunker -/

/-- V-CHK-14. -/
theorem test_byte_addr : answerOf (.byteAddr 250 3) base = some (.offset 2003) ∧
    answerOf (.byteAddr 1 7) base = some (.offset 15) := by decide
/-- V-CHK-2 to V-CHK-6. -/
theorem test_total_frames : answerOf (.totalFrames 7) base = some (.count 0) ∧
    answerOf (.totalFrames 15) base = some (.count 1) ∧ answerOf (.totalFrames 2008) base = some (.count 251) := by decide
/-- V-CHK-11, V-CHK-12. -/
theorem test_is_last_frame : answerOf (.isLastFrame 0 16) base = some (.truth false) ∧
    answerOf (.isLastFrame 1 16) base = some (.truth true) ∧ answerOf (.isLastFrame 0 0) base = some (.truth false) := by
  decide
/-- V-CHK-13. -/
theorem test_is_page_boundary : answerOf (.isPageBoundary 248) base = some (.truth false) ∧
    answerOf (.isPageBoundary 249) base = some (.truth true) := by decide
/-- V-CHK-8. -/
theorem test_frame_at : answerOf (.frameAt 1) (during .transferring 16 0 0 0) = some (.frame frame1) := by decide
/-- V-CHK-10: an image of 15 bytes, index 1. -/
theorem test_frame_at_out_of_range :
    (nextOf (exec (.frameAt 1) (during .transferring 15 0 0 0))).map State.error = some .outOfRange := by decide
/-- V-CHK-15. -/
theorem test_cur_index : answerOf .curIndex (during .transferring 4000 250 249 0) = some (.count 499) := by decide
/-- V-CHK-16, V-CHK-18, V-CHK-19. -/
theorem test_classify : answerOf .classify (during .transferring 4000 0 248 0) = some (.cls .midPage) ∧
    answerOf .classify (during .transferring 4000 0 249 0) = some (.cls (.challenge false)) ∧
    answerOf .classify (during .transferring 4000 250 249 0) = some (.cls (.challenge true)) := by decide

/-! ## The transfer state machine, single steps -/

/-- V-FSM-1. -/
theorem test_start : seen (step (given (.start 16) base)) = some ⟨.erasing, (0, 0), 0x0000, .none, true,
    [.connect, .request .update .programStart 100 [0x05, 0x05, 0x05, 0x05] .update]⟩ := by decide
/-- V-FSM-2, V-FSM-3, V-FSM-4. -/
theorem test_start_refused :
    seen (step (given (.start 0) base)) = some ⟨.idle, (0, 0), 0x0000, .imageEmpty, false, []⟩ ∧
      seen (step (given (.start 12) base)) = some ⟨.idle, (0, 0), 0x0000, .imageNotFrameAligned, false, []⟩ ∧
      seen (step (given (.start 7) base)) = some ⟨.idle, (0, 0), 0x0000, .imageNotFrameAligned, false, []⟩ := by decide
/-- V-FSM-6. -/
theorem test_start_busy : nextOf (step (given (.start 16) (after .done .none))) = some (after .done .none) := by decide
/-- V-FSM-8. -/
theorem test_erase_resp :
    (nextOf (step (given (.rsp [0x00]) (during .erasing 16 0 0 0)))).map State.state = some .transferring := by decide
/-- V-FSM-9, V-FSM-10. -/
theorem test_erase_resp_aborts :
    seen (step (given (.rsp [0x22, 0x22, 0x22]) (during .erasing 16 0 0 0))) =
        some ⟨.aborted, (0, 0), 0x0000, .eraseFailed, false, [.close]⟩ ∧
      seen (step (given (.rsp []) (during .erasing 16 0 0 0))) =
        some ⟨.aborted, (0, 0), 0x0000, .malformedResponse, false, [.close]⟩ := by decide
/-- V-FSM-11. -/
theorem test_erase_tmo : seen (step (given .tmo (during .erasing 16 0 0 0))) =
    some ⟨.aborted, (0, 0), 0x0000, .transportTimeout, false, [.close]⟩ := by decide
/-- V-FSM-12. -/
theorem test_frame_mid_page : seen (step (during .transferring 16 0 0 0)) = some ⟨.transferring, (0, 1), 0x26B3, .none,
    true, [.send .update .writeToFlash [0x00, 0x01, 0x02, 0x03, 0x04, 0x05, 0x06, 0x07]]⟩ := by decide +kernel
/-- V-FSM-13. -/
theorem test_frame_last : seen (step (during .transferring 16 0 1 0x26B3)) = some ⟨.awaitingPageCrc, (0, 1), 0x513D, .none, true, [.send .update .lastFrame [0x04, 0x04, 0x04, 0x04],
      .request .update .writeToFlash 200 [0x08, 0x09, 0x0A, 0x0B, 0x0C, 0x0D, 0x0E, 0x0F] .crcAck]⟩ := by decide +kernel
/-- V-FSM-15. -/
theorem test_frame_cancel :
    seen (step { during .transferring 16 0 1 0x26B3 with cancelReq := true }) =
      some ⟨.aborted, (0, 1), 0x26B3, .cancelled, false, [.close]⟩ := by decide
/-- V-FSM-16. -/
theorem test_crc_resp_match :
    seen (step (given (.rsp [0x35, 0x31, 0x20, 0x33, 0x44, 0x00, 0x00, 0x00]) (during .awaitingPageCrc 16 0 1 0x513D))) =
      some ⟨.pageAccepted, (0, 1), 0x513D, .none, true, []⟩ := by decide
/-- V-FSM-18 (one bit off), V-FSM-19 (short). -/
theorem test_crc_resp_other :
    seen (step (given (.rsp [0x35, 0x31, 0x20, 0x33, 0x43, 0x00, 0x00, 0x00]) (during .awaitingPageCrc 16 0 1 0x513D))) =
        some ⟨.pageRejected, (0, 1), 0x513D, .none, true, []⟩ ∧
      seen (step (given (.rsp [0x35, 0x31, 0x20, 0x33]) (during .awaitingPageCrc 16 0 1 0x513D))) =
        some ⟨.aborted, (0, 1), 0x513D, .malformedResponse, false, [.close]⟩ := by decide
/-- V-FSM-20. -/
theorem test_crc_tmo : seen (step (given .tmo (during .awaitingPageCrc 16 0 1 0x513D))) =
    some ⟨.aborted, (0, 1), 0x513D, .transportTimeout, false, [.close]⟩ := by decide
/-- V-FSM-21. -/
theorem test_page_accept_final : seen (step (during .pageAccepted 16 0 1 0x513D)) =
    some ⟨.completing, (2, 0), 0x0000, .none, true, [.send .update .crcSucceeded [0x03, 0x03, 0x03, 0x03]]⟩ := by decide
/-- V-FSM-22. -/
theorem test_page_accept_more : seen (step (during .pageAccepted 2008 0 249 0x4D2B)) =
    some ⟨.transferring, (250, 0), 0x0000, .none, true, [.send .update .crcSucceeded [0x03, 0x03, 0x03, 0x03]]⟩ := by decide
/-- V-FSM-24. -/
theorem test_page_reject : seen (step (during .pageRejected 16 0 1 0x513D)) =
    some ⟨.transferring, (0, 0), 0x0000, .none, true, [.send .update .crcFailed [0x07, 0x07, 0x07, 0x07]]⟩ := by decide
/-- V-FSM-25. -/
theorem test_page_reject_second : seen (step (during .pageRejected 2008 250 0 0x9DA7)) =
    some ⟨.transferring, (250, 0), 0x0000, .none, true, [.send .update .crcFailed [0x07, 0x07, 0x07, 0x07]]⟩ := by decide
/-- V-FSM-26. -/
theorem test_complete : seen (step (during .completing 16 2 0 0)) = some ⟨.done, (2, 0), 0x0000, .none, false,
    [.send .update .loadNewProgram [0xCC, 0xCC, 0xCC, 0xCC], .close]⟩ := by decide
/-- V-FSM-27. -/
theorem test_cancel : (nextOf (step (given .cancel (during .awaitingPageCrc 16 0 1 0x513D)))).map
    (fun t => (t.state, t.cancelReq)) = some (.awaitingPageCrc, true) := by decide
/-- V-FSM-28. -/
theorem test_cancel_no_effect : nextOf (step (given .cancel base)) = some base ∧
    nextOf (step (given .cancel (after .done .none))) = some (after .done .none) := by decide
/-- V-FSM-29. -/
theorem test_reset : nextOf (step (given .reset (after .aborted .eraseFailed))) = some base := by decide
/-- R221: no meaning while the transport is held. -/
theorem test_reset_held : refusalOf (step (given .reset (during .erasing 16 0 0 0))) = some .resetWhileHeld := by decide
/-- V-FSM-30, R205: nothing can move. -/
theorem test_stuck : faultOf (step (after .done .none)) = some .runOver ∧
    faultOf (step (during .erasing 16 0 0 0)) = some .awaitingResult ∧ faultOf (step base) = some .awaitingCommand := by
  decide
/-- R81: a result where no request is outstanding. -/
theorem test_unsolicited : refusalOf (step (given (.rsp [0x00]) base)) = some .noRequestOutstanding := by decide
/-- A row of the opcode table is run by the next step (log 7). -/
theorem test_place_word : (nextOf (step (State.reset.withFetchWord 24 0x60004))).map State.trace =
    some [.send .update .lastFrame [0x04, 0x04, 0x04, 0x04]] := by decide
/-- R32: the view of the flags and of the state. -/
theorem test_status_view : statusView (during .completing 16 2 0 0) 0 = some 6 ∧
    statusView { during .completing 16 2 0 0 with cancelReq := true } 6 = some 3 := by decide

/-! ## Witnesses: for every statement with hypotheses, a state and operands that meet them -/

/-- What START of program P1 emits. -/
def started : List TransportOp := [.connect, programStartMsg refParams]

/-- The states of program P1 from START to `Done`. -/
def p1Erasing : State := { during .erasing 16 0 0 0 with trace := started }
def p1Frame1 : State := { during .transferring 16 0 1 0x26B3 with trace := started ++ [writeFrameMsg frame0] }
def p1Challenge : State := { during .awaitingPageCrc 16 0 1 0x513D with
  trace := started ++ [writeFrameMsg frame0, lastFrameMarkMsg, crcChallengeMsg refParams frame1] }
def p1Accepted : State := { p1Challenge with state := .pageAccepted }
def p1Completing : State := { during .completing 16 2 0 0 with trace := p1Challenge.trace ++ [crcOkMsg refParams] }

/-- The device's answer of program P1. -/
def answer513D : List Byte := [0x35, 0x31, 0x20, 0x33, 0x44, 0x00, 0x00, 0x00]

/-- Frame 249 of program P4 and the block about to send it (V-FSM-14). -/
def frame249 : Frame := ⟨0xCF, 0xCE, 0xCD, 0xCC, 0xCB, 0xCA, 0xC9, 0xC8⟩
def p4Frame249 : State :=
  { during .transferring 2008 0 249 0 with image := Memory.ofBytes 1992 (frameBytes frame249) }

/-- Frame 0 as an image of its own, about to be sent: the one frame of the image. -/
def oneFrame : State := { during .transferring 8 0 0 0 with image := Memory.ofBytes 0 (frameBytes frame0) }

theorem witness_inv_erasing : StateInv p1Erasing :=
  ⟨by decide, by decide, by decide, by decide, by unfold onFrame; decide, by unfold challenged; decide, by decide,
    by unfold holdsTransport; decide, by unfold errorFits abortKind; decide⟩

theorem witness_inv_frame1 : StateInv p1Frame1 :=
  ⟨by decide, by decide, by decide, by decide, by unfold onFrame; decide, by unfold challenged; decide, by decide,
    by unfold holdsTransport; decide, by unfold errorFits abortKind; decide⟩

theorem witness_inv_challenge : StateInv p1Challenge :=
  ⟨by decide, by decide, by decide, by decide, by unfold onFrame; decide, by unfold challenged; decide, by decide,
    by unfold holdsTransport; decide, by unfold errorFits abortKind; decide⟩

theorem witness_inv_accepted : StateInv p1Accepted :=
  ⟨by decide, by decide, by decide, by decide, by unfold onFrame; decide, by unfold challenged; decide, by decide,
    by unfold holdsTransport; decide, by unfold errorFits abortKind; decide⟩

theorem witness_inv_completing : StateInv p1Completing :=
  ⟨by decide, by decide, by decide, by decide, by unfold onFrame; decide, by unfold challenged; decide, by decide,
    by unfold holdsTransport; decide, by unfold errorFits abortKind; decide⟩

theorem witness_DecodingAnEncodedMessageGivesItBack : encode .msgWriteFrame = some [0x08, 0x00, 0x06] := by decide

theorem witness_OnlyEncodedMessagesDecode :
    decodeHeader [0x05, 0x00, 0x0E, 0xAA] = .instr .msgProgramStart [0xAA] := by decide

theorem witness_EmittedOperationHasTheHeaderOfItsMessage :
    encodeHeader .msgCrcChallenge ≠ none ∧ (∃ t, exec .msgCrcChallenge p1Frame1 = .next t) ∧
      (∃ t, exec .msgCrcChallenge (during .transferring 15 0 1 0) = .next t) :=
  ⟨by decide, ⟨_, rfl⟩, ⟨_, rfl⟩⟩

theorem witness_RuleSelectedExactlyWhenEnabled :
    selectRule .completing true .internal = some .complete ∧ eventOf .complete = some .internal ∧
      ruleEnabled .complete .completing true := ⟨rfl, rfl, rfl⟩

theorem witness_ResponseRowsActAsTheRulesThatAcceptThem :
    selectResponse p1Erasing.state [] = some (.rspStartStatus []) ∧
      selectResponse p1Challenge.state answer513D = some (.rspCrcAck answer513D) := by decide

theorem witness_StepRunsTheSelectedRule_event : ∃ (s : State) (e : Event) (rest : List Event) (i : Instr),
    s.probe = none ∧ s.inputs = e :: rest ∧ selectRule s.state s.cancelReq e = some i ∧
      wellFormed s.params i = true :=
  ⟨given (.rsp answer513D) p1Challenge, .rsp answer513D, [], .crcResp answer513D, rfl, rfl, rfl, by decide⟩

theorem witness_StepRunsTheSelectedRule_internal :
    p1Frame1.probe = none ∧ p1Frame1.inputs = [] ∧
      selectInternal p1Frame1.state p1Frame1.cancelReq = some .frame := by decide

theorem witness_StepRunsTheDecodedRow :
    decodeHeader [0x03, 0x00, 0x06] = .instr .msgCrcOk [] ∧ wellFormed base.params (.frameAt (2 ^ 29 - 1)) = true ∧
      decodeTableWord 24 0x60003 = some .msgCrcOk ∧
      ({ base with probe := some (.word [0x03, 0x00, 0x06]) } : State).probe = some (.word [0x03, 0x00, 0x06]) ∧
      ({ base with probe := some (.op (.frameAt 1)) } : State).probe = some (.op (.frameAt 1)) := by decide

theorem witness_ResultWithoutARequestIsRefused :
    (given .tmo base).probe = none ∧ (given .tmo base).inputs = [.tmo] ∧ ¬ blocked (given .tmo base).state ∧
      ¬ blocked p1Frame1.state ∧ p1Challenge.state ≠ .erasing ∧ p1Erasing.state ≠ .awaitingPageCrc := by
  unfold blocked; decide

theorem witness_DisabledRulesDoNothing :
    (given .internal base).probe = none ∧ (given .internal base).inputs = [.internal] ∧
      selectInternal (given .internal base).state (given .internal base).cancelReq = none ∧
      ¬ ruleEnabled .frame .transferring true ∧ ¬ ruleEnabled .frameCancel .transferring false ∧
      ¬ ruleEnabled (.startBusy 8) .idle false ∧ ¬ ruleEnabled .pageAccept .pageRejected false ∧
      ¬ ruleEnabled .pageReject .pageAccepted false ∧ ¬ ruleEnabled .complete .done false := by
  unfold ruleEnabled; decide

theorem witness_IllFormedEventIsRefused :
    (given (.rsp (rep 0 9)) p1Erasing).probe = none ∧ (given (.rsp (rep 0 9)) p1Erasing).inputs = [.rsp (rep 0 9)] ∧
      8 < (rep 0 9).length ∧ blocked p1Erasing.state ∧ (given (.start (2 ^ 32)) base).inputs = [.start (2 ^ 32)] ∧
      2 ^ base.params.addrW ≤ 2 ^ 32 := by
  unfold blocked; decide

theorem witness_FrameMessagesCarryTheCurrentFrame :
    frameThere p1Frame1 (p1Frame1.committedFrameIndex + p1Frame1.frameInPage.val) frame1 := by
  unfold frameThere; decide

theorem witness_FrameOutsideTheImageAborts :
    (during .transferring 15 0 1 0).imageLen < 8 * 1 + 8 ∧ (during .transferring 15 0 1 0).imageLen < 8 * (0 + 1) + 8 := by
  decide

theorem witness_FrameNotLoadedIsRefused :
    8 * (0 + (2 : Fin 250).val) + 8 ≤ (during .transferring 24 0 2 0).imageLen ∧
      Memory.slice (during .transferring 24 0 2 0).image (8 * 2) 8 = none := by decide

theorem witness_CrcOperationsFollowTheirAlgorithms :
    (0x8000#16).getLsbD 15 = true ∧ (0x7FFF#16).getLsbD 15 = false := by decide

/-- V-CRC-21. -/
theorem witness_CrcResumesAfterAnyByte :
    exec (.crcSeq 0 [0x31, 0x32, 0x33, 0x34]) base = .next { base with opResult := .crc 0xD789 } ∧
      exec (.crcSeq 0xD789 [0x35, 0x36, 0x37, 0x38, 0x39]) base = .next { base with opResult := .crc 0x31C3 } :=
  ⟨by rw [show exec (.crcSeq 0 [0x31, 0x32, 0x33, 0x34]) base =
      .next { base with opResult := .crc (crcSeq 0 [0x31, 0x32, 0x33, 0x34]) } from rfl,
      show crcSeq 0 [0x31, 0x32, 0x33, 0x34] = 0xD789 by decide +kernel],
    by rw [show exec (.crcSeq 0xD789 [0x35, 0x36, 0x37, 0x38, 0x39]) base =
      .next { base with opResult := .crc (crcSeq 0xD789 [0x35, 0x36, 0x37, 0x38, 0x39]) } from rfl,
      show crcSeq 0xD789 [0x35, 0x36, 0x37, 0x38, 0x39] = 0x31C3 by decide +kernel]⟩

theorem witness_ChunkerOperationsAnswerTheirFunctions :
    p1Frame1.committedFrameIndex + p1Frame1.frameInPage.val + 1 = p1Frame1.imageLen / 8 ∧
      p4Frame249.committedFrameIndex + p4Frame249.frameInPage.val + 1 ≠ p4Frame249.imageLen / 8 ∧
      p4Frame249.frameInPage.val = 249 ∧ (0 + (248 : Fin 250).val + 1 ≠ 2008 / 8 ∧ (248 : Fin 250).val ≠ 249) := by
  decide

theorem witness_FrameAtAnswersTheImageBytes :
    8 * 1 + 8 ≤ p1Frame1.imageLen ∧
      ∀ k, k < 8 → Memory.read p1Frame1.image (8 * 1 + k) = (frameBytes frame1)[k]? := by decide

theorem witness_ByteAddressFitsItsWidth :
    3 ≤ base.params.addrW ∧ wellFormed base.params (.byteAddr (2 ^ 29 - 1) 7) = true ∧
      ∃ t, exec (.byteAddr (2 ^ 29 - 1) 7) base = .next t := ⟨by decide, by decide, ⟨_, rfl⟩⟩

theorem witness_StartBeginsOrRefusesTheTransfer :
    base.state = .idle ∧ 7 % 8 ≠ 0 ∧ (0 % 8 = 0 ∧ 0 / 8 = 0) ∧ 8 % 8 = 0 ∧ 8 / 8 ≠ 0 := by decide

theorem witness_StartOutsideIdleHasNoEffect : (after .done .none).state ≠ .idle ∧ p1Erasing.state ≠ .idle := by decide

theorem witness_StartResponseProceedsOrAborts :
    p1Erasing.state = .erasing ∧ 0x21#8 ≠ 0x22#8 ∧ 0x23#8 ≠ 0x22#8 := by decide

theorem witness_TimeoutAborts : p1Erasing.state = .erasing ∧ p1Challenge.state = .awaitingPageCrc := by decide

theorem witness_FrameFoldsAndSendsTheCurrentFrame :
    frameThere (during .transferring 16 0 0 0) 0 frame0 ∧ (0 + 0 + 1 ≠ 16 / 8 ∧ (0 : Fin 250).val ≠ 249) ∧
      frameThere p4Frame249 249 frame249 ∧ (0 + 249 + 1 ≠ p4Frame249.imageLen / 8 ∧ p4Frame249.frameInPage.val = 249) ∧
      frameThere oneFrame 0 frame0 ∧ 0 + 0 + 1 = oneFrame.imageLen / 8 ∧ oneFrame.state = .transferring ∧
      oneFrame.cancelReq = false ∧ (during .transferring 15 0 1 0).state = .transferring ∧
      (during .transferring 15 0 1 0).imageLen < 8 * (0 + 1) + 8 := by
  unfold frameThere; decide

theorem witness_RecordedCancelAbortsBetweenFrames :
    ({ p1Frame1 with cancelReq := true } : State).state = .transferring ∧
      ({ p1Frame1 with cancelReq := true } : State).cancelReq = true := by decide

theorem witness_CrcResponseDecidesThePage :
    p1Challenge.state = .awaitingPageCrc ∧ ([0x35, 0x31, 0x20, 0x33] : List Byte).length < 5 ∧
      byteDecode p1Challenge.params.byteDecode 0x33 0x47 = none ∧
      byteDecode p1Challenge.params.byteDecode 0x35 0x31 = some 0x51 ∧
      byteDecode p1Challenge.params.byteDecode 0x33 0x44 = some 0x3D ∧
      (0x51#8 ++ 0x3D#8 = p1Challenge.crcAccumulator ∧ 0x51#8 ++ 0x3C#8 ≠ p1Challenge.crcAccumulator) := by decide

theorem witness_PageAcceptAdvancesByThePage : p1Accepted.state = .pageAccepted := rfl

theorem witness_PageRejectRewindsThePage : (during .pageRejected 16 0 1 0x513D).state = .pageRejected := rfl

theorem witness_CompleteEndsAndReleases : p1Completing.state = .completing := rfl

theorem witness_CancelIsRecordedInATransfer :
    holdsTransport p1Erasing.state ∧ holdsTransport p1Completing.state ∧ base.state = .idle := by
  unfold holdsTransport; decide

theorem witness_ResetWritesEveryRegisterUnlessHeld :
    (after .aborted .cancelled).tpHeld = false ∧ p1Completing.tpHeld = true := by decide

theorem witness_AbortsArePrecise :
    ∃ t, exec .eraseTmo p1Erasing = .next t ∧ p1Erasing.state ≠ .aborted ∧ t.state = .aborted :=
  ⟨_, rfl, by decide, rfl⟩

theorem witness_RegistersAreWrittenOnlyByTheirRules :
    (∃ t, exec (.start 16) base = .next t ∧ t.imageLen ≠ base.imageLen ∧ t.tpHeld ≠ base.tpHeld) ∧
      (∃ t, exec .cancel p1Frame1 = .next t ∧ t.cancelReq ≠ p1Frame1.cancelReq) ∧
      (∃ t, exec .crcTmo p1Challenge = .next t ∧ t.error ≠ p1Challenge.error ∧ t.tpHeld ≠ p1Challenge.tpHeld ∧
        t.state ≠ p1Challenge.state) ∧
      (∃ t, exec .pageAccept p1Accepted = .next t ∧ t.committedFrameIndex ≠ p1Accepted.committedFrameIndex ∧
        t.frameInPage ≠ p1Accepted.frameInPage ∧ t.crcAccumulator ≠ p1Accepted.crcAccumulator) :=
  ⟨⟨_, rfl, by decide, by decide⟩, ⟨_, rfl, by decide⟩, ⟨_, rfl, by decide, by decide, by decide⟩,
    ⟨_, rfl, by decide, by decide, by decide⟩⟩

theorem witness_NoStepWritesTheImageOrTheParameters : (∃ t, step p1Frame1 = .next t) ∧ Memory.wf p1Frame1.image :=
  ⟨⟨_, rfl⟩, by decide⟩

theorem witness_TraceOnlyGrows : ∃ t, step p1Frame1 = .next t ∧ t.trace.length = p1Frame1.trace.length + 2 :=
  ⟨_, rfl, rfl⟩

theorem witness_ErrorAndCancelRequestInfluenceNothingElse :
    (∃ t, exec .frame p1Frame1 = .next t) ∧ (∃ t, exec .frameCancel { p1Frame1 with cancelReq := true } = .next t) ∧
      Instr.pageAccept ≠ .frame ∧ Instr.pageAccept ≠ .frameCancel ∧ ∃ t, exec .pageAccept p1Accepted = .next t :=
  ⟨⟨_, rfl⟩, ⟨_, rfl⟩, by decide, by decide, ⟨_, rfl⟩⟩

theorem witness_EveryStepKeepsTheStateInvariants :
    p1Frame1.probe = none ∧ StateInv p1Frame1 ∧ (∃ t, step p1Frame1 = .next t ∧ t.state ≠ .idle) ∧ p1Frame1.state ≠ .idle :=
  ⟨rfl, witness_inv_frame1, ⟨_, rfl, by decide⟩, by decide⟩

theorem witness_EveryStepKeepsTheAccumulatorExact :
    p1Frame1.probe = none ∧ accumulatorExact p1Frame1 ∧ ∃ t, step p1Frame1 = .next t :=
  ⟨rfl, ⟨fun _ => ⟨frameBytes frame0, by decide, by decide +kernel⟩,
    fun h => absurd h (by unfold challenged; decide)⟩, ⟨_, rfl⟩⟩

/-- Both bullets of R181: the challenge frame is folded too. -/
theorem witness_EveryStepKeepsTheAccumulatorExact_challenged : accumulatorExact p1Challenge :=
  ⟨fun h => absurd h (by decide), fun _ => ⟨frameBytes frame0 ++ frameBytes frame1, by decide, by decide +kernel⟩⟩

theorem witness_EveryStepKeepsTheTransportBracketed :
    transportBracketed p1Completing ∧ ∃ t, step p1Completing = .next t := ⟨by unfold transportBracketed; decide, ⟨_, rfl⟩⟩

theorem witness_EveryStepKeepsTheDeliveryExact :
    deliveryExact p1Erasing ∧ deliveryExact p1Frame1 ∧ deliveryExact p1Challenge ∧ deliveryExact p1Completing ∧
      ∃ t, step p1Frame1 = .next t :=
  ⟨by unfold deliveryExact deliveredUpTo challenged; decide, by unfold deliveryExact deliveredUpTo challenged; decide,
    by unfold deliveryExact deliveredUpTo challenged; decide, by unfold deliveryExact deliveredUpTo challenged; decide,
    ⟨_, rfl⟩⟩

theorem witness_EveryStepKeepsTheMessagesInForm : traceFits p1Frame1 ∧ ∃ t, step p1Frame1 = .next t :=
  ⟨by unfold traceFits; decide, ⟨_, rfl⟩⟩

theorem witness_EveryStepKeepsTheRegistersInTheirWidths :
    registersFit p1Accepted ∧ StateInv p1Accepted ∧ ∃ t, step p1Accepted = .next t :=
  ⟨by unfold registersFit; decide, witness_inv_accepted, ⟨_, rfl⟩⟩

theorem witness_EveryRunEndsWithClose :
    p1Completing.probe = none ∧ StateInv p1Completing ∧ ¬ terminal p1Completing.state ∧
      ∃ t, step p1Completing = .next t ∧ terminal t.state :=
  ⟨rfl, witness_inv_completing, by unfold terminal; decide, ⟨_, rfl, .inl rfl⟩⟩

theorem witness_FrameInATransferIsInsideTheImage : StateInv p1Frame1 ∧ onFrame p1Frame1.state :=
  ⟨witness_inv_frame1, .inl rfl⟩

theorem witness_StateChangesOnlyAlongTheTransitions :
    ∃ t, step p1Accepted = .next t ∧ t.state ≠ p1Accepted.state := ⟨_, rfl, by decide⟩

theorem witness_TerminalStateIsLeftOnlyByReset :
    terminal (given .reset (after .done .none)).state ∧
      ∃ t, step (given .reset (after .done .none)) = .next t ∧ t.state ≠ .done := ⟨.inl rfl, ⟨_, rfl, by decide⟩⟩

theorem witness_BlockedStateIsLeftOnlyByAResult :
    blocked (given .cancel p1Challenge).state ∧ (∃ t, step (given .cancel p1Challenge) = .next t) ∧
      ∃ t, step (given .tmo p1Challenge) = .next t ∧ t.state ≠ p1Challenge.state :=
  ⟨.inr rfl, ⟨_, rfl⟩, ⟨_, rfl, by decide⟩⟩

theorem witness_CommitmentIsMonotone :
    (∃ t, step p1Accepted = .next t ∧ t.state ≠ .idle ∧ p1Accepted.committedFrameIndex < t.committedFrameIndex) ∧
      ∃ t, step (given (.rsp answer513D) p1Challenge) = .next t ∧ t.state = .pageAccepted :=
  ⟨⟨_, rfl, by decide, by decide⟩, ⟨_, rfl, by decide⟩⟩

theorem witness_EraseFailureSendsNoFrame :
    (given (.rsp [0x22]) p1Erasing).state = .erasing ∧ (given (.rsp [0x22]) p1Erasing).tpHeld = true ∧
      (given (.rsp [0x22]) p1Erasing).trace = [] ++ [.connect, programStartMsg refParams] ∧
      deliveryExact (given (.rsp [0x22]) p1Erasing) ∧
      ∃ t, step (given (.rsp [0x22]) p1Erasing) = .next t ∧ t.state = .aborted ∧ t.error = .eraseFailed :=
  ⟨rfl, rfl, rfl, by unfold deliveryExact deliveredUpTo challenged; decide, ⟨_, rfl, by decide, by decide⟩⟩

/-- The step into `Erasing` after an earlier transfer: what was emitted before it stays before `Connect`. -/
theorem witness_EraseFailureSendsNoFrame_start :
    ∃ t, step (given (.start 16) { base with trace := [.connect, .close] }) = .next t ∧ t.state = .erasing ∧
      t.trace = [.connect, .close] ++ [.connect, programStartMsg refParams] := ⟨_, rfl, rfl, rfl⟩

theorem witness_FrameDependsOnTheCursorAndTheImageAlone :
    p1Frame1.state = (during .transferring 16 0 1 0x26B3).state ∧ p1Frame1.image = base.image ∧
      p1Frame1.trace ≠ (during .transferring 16 0 1 0x26B3).trace ∧ ∃ t, exec .frame p1Frame1 = .next t :=
  ⟨rfl, rfl, by decide, ⟨_, rfl⟩⟩

/-- The device answers `00 00` to the one-frame page. -/
theorem witness_RejectedPageIsResentWithoutLimit :
    oneFrame.probe = none ∧ oneFrame.state = .transferring ∧ oneFrame.cancelReq = false ∧ oneFrame.frameInPage = 0 ∧
      oneFrame.crcAccumulator = 0 ∧ oneFrame.committedFrameIndex + 1 = oneFrame.imageLen / 8 ∧
      frameThere oneFrame oneFrame.committedFrameIndex frame0 ∧
      decodeCrcAck oneFrame.params.byteDecode [0x30, 0x30, 0x20, 0x30, 0x30] = some 0x0000 ∧
      0x0000#16 ≠ crcSeq 0 (frameBytes frame0) := by
  unfold frameThere; decide +kernel

/-- The device answers `26 B3`, the CRC of frame 0 (V-CRC-22). -/
theorem witness_OneFrameImageIsTransferred :
    8 < 2 ^ refParams.addrW ∧ 0x05#8 ≠ 0x22#8 ∧
      decodeCrcAck refParams.byteDecode [0x32, 0x36, 0x20, 0x42, 0x33] = some (crcSeq 0 (frameBytes frame0)) := by
  decide +kernel

/-- A BYTE_DECODE that can express every CRC (the first byte of each pair is the byte), in program P1 at frame 1. -/
def anyCrc : State :=
  { p1Frame1 with params := { refParams with byteDecode := Laws.Config.ByteDecode.ofFun fun a _ => some a } }

theorem witness_inv_anyCrc : StateInv anyCrc :=
  ⟨by decide, by decide, by decide, by decide, by unfold onFrame; decide, by unfold challenged; decide, by decide,
    by unfold holdsTransport; decide, by unfold errorFits abortKind; decide⟩

theorem witness_EveryTransferCanStillComplete :
    anyCrc.probe = none ∧ StateInv anyCrc ∧ registersFit anyCrc ∧ anyCrc.state = .transferring ∧
      anyCrc.cancelReq = false ∧
      (∃ bs, Memory.slice anyCrc.image 0 anyCrc.imageLen = some bs) ∧
      ∀ v : Crc, ∃ r : List Byte, r.length ≤ 8 ∧ decodeCrcAck anyCrc.params.byteDecode r = some v := by
  refine ⟨rfl, witness_inv_anyCrc, ⟨by decide, by decide⟩, rfl, rfl, ⟨frameBytes frame0 ++ frameBytes frame1, by decide⟩, fun v =>
    ⟨[v.extractLsb' 8 8, 0, 0, v.extractLsb' 0 8, 0], by simp, ?_⟩⟩
  simp only [decodeCrcAck, anyCrc, Laws.Config.ByteDecode.apply_ofFun, Option.some.injEq]
  refine BitVec.eq_of_toNat_eq ((BitVec.toNat_append (v.extractLsb' 8 8) (v.extractLsb' 0 8)).trans ?_)
  have := v.isLt
  rw [← Nat.shiftLeft_add_eq_or_of_lt (BitVec.isLt _)]
  simp only [BitVec.extractLsb'_toNat, Nat.shiftLeft_eq, Nat.shiftRight_eq_div_pow]
  omega

theorem witness_StatusViewsShowTheRegisters : StateInv p1Challenge ∧ registersFit p1Challenge :=
  ⟨witness_inv_challenge, by unfold registersFit; decide⟩

end Sys2Proof.Tests
end

/-! # Proofs: what every step keeps, and which rule a step runs (spec/00_scope.md) -/

namespace Sys2Proof.Machine

/-! ## From fetching to the step -/

theorem step_of_fetch_run {s s' : State} {i : Instr} (h : fetch s = .run i s') : step s = exec i s' := by
  simp [step, h]

theorem fetch_of_probe {s : State} {p : Probe} (hp : s.probe = some p) : fetch s = fetchProbe p s := by
  simp [fetch, hp]

theorem fetch_of_input {s : State} {e : Event} {rest : List Event} (hp : s.probe = none) (hin : s.inputs = e :: rest) :
    fetch s = deliver e { s with inputs := rest } := by
  simp [fetch, hp, hin]

theorem fetch_of_no_input {s : State} {i : Instr} (hp : s.probe = none) (hin : s.inputs = [])
    (hsel : selectInternal s.state s.cancelReq = some i) : fetch s = accept i s := by
  simp [fetch, hp, hin, hsel]

theorem deliver_of_selectRule {s : State} {e : Event} {i : Instr} (h : selectRule s.state s.cancelReq e = some i) :
    deliver e s = accept i s := by
  simp [deliver, h]

/-- What a probe comes to: an instruction offered to the hardware with the probe taken out, or bytes that are none. -/
theorem fetchProbe_cases (p : Probe) (s : State) :
    (∃ i, fetchProbe p s = accept i { s with probe := none }) ∨ ∃ e, fetchProbe p s = .refuse (.undecodable e) := by
  cases p with
  | op i => exact .inl ⟨i, rfl⟩
  | word bytes =>
    cases h : decodeHeader bytes with
    | instr i rest => exact .inl ⟨i, by simp [fetchProbe, h]⟩
    | rejected e => exact .inr ⟨e, by simp [fetchProbe, h]⟩

/-- A step that runs a probe and answers a next state is the meaning of an instruction with the probe taken out. -/
theorem step_next_of_probe {s t : State} {p : Probe} (hp : s.probe = some p) (h : step s = .next t) :
    ∃ i, wellFormed s.params i = true ∧ exec i { s with probe := none } = .next t := by
  rw [step, fetch_of_probe hp] at h
  rcases fetchProbe_cases p s with ⟨i, hf⟩ | ⟨e, hf⟩ <;> rw [hf] at h
  · by_cases hw : wellFormed s.params i = true
    · exact ⟨i, hw, by simpa [accept, hw] using h⟩
    · simp [accept, hw] at h
  · simp at h

/-- Every step that answers a next state, a row run by itself included: fetching touches only the inputs and the probe,
and then an instruction runs or the turn passes. -/
theorem step_next_exec {s t : State} (h : step s = .next t) :
    ∃ es p, (∃ i, exec i { s with inputs := es, probe := p } = .next t) ∨ t = { s with inputs := es, probe := p } := by
  cases hp : s.probe with
  | some p =>
    obtain ⟨i, -, hx⟩ := step_next_of_probe hp h
    exact ⟨s.inputs, none, .inl ⟨i, hx⟩⟩
  | none =>
    refine ⟨s.inputs.tail, s.probe, ?_⟩
    rcases step_next_cases hp h with ⟨i, -, -, hx⟩ | ⟨-, rfl⟩
    · exact .inl ⟨i, hx⟩
    · exact .inr rfl

/-! ## The rule a step runs -/

/-- Settles O7: fetching hands the selected rule to the step, with the oldest event, if there is one, taken out. -/
theorem stepRunsTheSelectedRule : Obligations.StepRunsTheSelectedRule := by
  constructor
  · intro s e rest i hp hin hsel hw
    have hdeliver := deliver_of_selectRule (s := { s with inputs := rest }) hsel
    apply step_of_fetch_run
    rw [fetch_of_input hp hin, hdeliver]
    exact accept_eq_run.2 ⟨hw, rfl, rfl⟩
  · intro s i hp hin hsel
    apply step_of_fetch_run
    rw [fetch_of_no_input hp hin hsel]
    exact accept_eq_run.2 ⟨selectInternal_wellFormed _ hsel, rfl, rfl⟩

/-! ## The image and the parameters -/

/-- No step writes the image or the parameters (R33, R52, R61). -/
theorem step_image_params {s t : State} (h : step s = .next t) : t.image = s.image ∧ t.params = s.params := by
  obtain ⟨es, p, ⟨i, hx⟩ | rfl⟩ := step_next_exec h
  · obtain ⟨himage, -, hparams, -⟩ := exec_sameSurroundings hx
    exact ⟨himage, hparams⟩
  · exact ⟨rfl, rfl⟩

/-- Settles O38: a step keeps the image itself, so every byte of it and its form. -/
theorem noStepWritesTheImageOrTheParameters : Obligations.NoStepWritesTheImageOrTheParameters := by
  intro s t h
  obtain ⟨himage, hparams⟩ := step_image_params h
  rw [himage]
  exact ⟨fun _ => rfl, hparams, id⟩

/-! ## The output trace -/

/-- `t` holds all that `s` has emitted and at most two operations after it (R7). -/
def appendsAtMostTwo (s t : State) : Prop :=
  ∃ ops : List TransportOp, t.trace = s.trace ++ ops ∧ ops.length ≤ 2

theorem appendsAtMostTwo_of_trace_eq {s t : State} (h : t.trace = s.trace) : appendsAtMostTwo s t :=
  ⟨[], by simp [h], by simp⟩

theorem appendsAtMostTwo_of_one {s t : State} {op : TransportOp} (h : t.trace = s.trace ++ [op]) :
    appendsAtMostTwo s t :=
  ⟨[op], h, by simp⟩

theorem appendsAtMostTwo_of_two {s t : State} {op op' : TransportOp} (h : t.trace = s.trace ++ [op] ++ [op']) :
    appendsAtMostTwo s t :=
  ⟨[op, op'], by simpa using h, by simp⟩

theorem abortEntry_appendsAtMostTwo (k : ErrorKind) (s : State) : appendsAtMostTwo s (abortEntry k s) := by
  by_cases hh : s.tpHeld = true
  · exact appendsAtMostTwo_of_one (op := .close) (by simp [hh])
  · exact appendsAtMostTwo_of_trace_eq (by simp [hh])

theorem withFrame_appendsAtMostTwo {index : Nat} {s t : State} {k : Frame → State}
    (hk : ∀ f, appendsAtMostTwo s (k f)) (h : withFrame index s k = .next t) : appendsAtMostTwo s t := by
  rcases withFrame_next h with ⟨f, -, rfl⟩ | ⟨-, rfl⟩
  · exact hk f
  · exact abortEntry_appendsAtMostTwo _ _

/-- FRAME emits the frame, or its challenge with the marker of the image's last frame before it (R155). -/
theorem processFrame_appendsAtMostTwo (s : State) (f : Frame) : appendsAtMostTwo s (processFrame s f) := by
  rcases processFrame_cases s f with ⟨-, h⟩ | ⟨marker, -, h⟩ <;> rw [h]
  · exact appendsAtMostTwo_of_one rfl
  · cases marker with
    | false => exact appendsAtMostTwo_of_one (op := crcChallengeMsg s.params f) (by simp)
    | true => exact appendsAtMostTwo_of_two rfl

theorem acceptStartStatus_appendsAtMostTwo (r : List Byte) (s : State) :
    appendsAtMostTwo s (acceptStartStatus r s) := by
  rcases acceptStartStatus_cases r s with ⟨-, h⟩ | ⟨_, _, -, -, h⟩ | ⟨_, _, -, -, h⟩ <;> rw [h]
  · exact abortEntry_appendsAtMostTwo _ _
  · exact abortEntry_appendsAtMostTwo _ _
  · exact appendsAtMostTwo_of_trace_eq rfl

theorem acceptCrcAck_appendsAtMostTwo (r : List Byte) (s : State) : appendsAtMostTwo s (acceptCrcAck r s) := by
  rcases acceptCrcAck_cases r s with ⟨-, h⟩ | ⟨-, h⟩ | ⟨_, -, -, h⟩ <;> rw [h]
  · exact abortEntry_appendsAtMostTwo _ _
  · exact appendsAtMostTwo_of_trace_eq rfl
  · exact appendsAtMostTwo_of_trace_eq rfl

/-- START emits `Connect` and MSG.PROGRAM_START where it is accepted, and nothing elsewhere (R151). -/
theorem execStart_appendsAtMostTwo {len : Nat} {s t : State} (h : execStart len s = .next t) :
    appendsAtMostTwo s t := by
  unfold execStart at h
  split_ifs at h <;> obtain rfl := Host.Outcome.next.inj h
  · exact appendsAtMostTwo_of_trace_eq rfl
  · exact appendsAtMostTwo_of_trace_eq rfl
  · exact appendsAtMostTwo_of_trace_eq rfl
  · exact appendsAtMostTwo_of_two rfl

/-- The answer of a meaning that is guarded: a next state under its condition, refused elsewhere. -/
theorem eq_of_guarded_next {c : Prop} [Decidable c] {u t : State} {r : Refusal}
    (h : (if c then .next u else .refused r : Host.Outcome State Fault Refusal) = .next t) : u = t := by
  split_ifs at h
  exact Host.Outcome.next.inj h

/-- Every instruction keeps the trace and appends at most two operations to it (R7, R58). -/
theorem exec_appendsAtMostTwo {i : Instr} {s t : State} (h : exec i s = .next t) : appendsAtMostTwo s t := by
  cases i
  case msgProgramStart | msgLastFrameMark | msgCrcOk | msgCrcFail | msgProgramEnd =>
    obtain rfl := Host.Outcome.next.inj h
    exact appendsAtMostTwo_of_one rfl
  case msgWriteFrame | msgCrcChallenge =>
    exact withFrame_appendsAtMostTwo (fun _ => appendsAtMostTwo_of_one rfl) h
  case frameAt =>
    refine withFrame_appendsAtMostTwo (fun _ => ?_) h
    exact appendsAtMostTwo_of_trace_eq rfl
  case crcUpdate | crcBitstep | crcClear | crcFold8 | crcSeq | byteAddr | totalFrames | isLastFrame | isPageBoundary |
      curIndex | classify =>
    obtain rfl := Host.Outcome.next.inj h
    exact appendsAtMostTwo_of_trace_eq rfl
  case rspStartStatus r | eraseResp r =>
    obtain rfl := eq_of_guarded_next h
    exact acceptStartStatus_appendsAtMostTwo r s
  case rspCrcAck r | crcResp r =>
    obtain rfl := eq_of_guarded_next h
    exact acceptCrcAck_appendsAtMostTwo r s
  case eraseTmo | crcTmo | frameCancel =>
    obtain rfl := eq_of_guarded_next h
    exact abortEntry_appendsAtMostTwo _ s
  case start => exact execStart_appendsAtMostTwo h
  case startBusy =>
    obtain rfl := eq_of_guarded_next h
    exact appendsAtMostTwo_of_trace_eq rfl
  case frame =>
    simp only [exec, execFrame] at h
    split_ifs at h
    exact withFrame_appendsAtMostTwo (processFrame_appendsAtMostTwo s) h
  case pageAccept | pageReject =>
    obtain rfl := eq_of_guarded_next h
    exact appendsAtMostTwo_of_one rfl
  case complete =>
    obtain rfl := eq_of_guarded_next h
    exact appendsAtMostTwo_of_two rfl
  case cancel =>
    obtain rfl := Host.Outcome.next.inj h
    split
    · exact appendsAtMostTwo_of_trace_eq rfl
    · exact appendsAtMostTwo_of_trace_eq rfl
  case reset =>
    simp only [exec, execReset] at h
    split_ifs at h
    obtain rfl := Host.Outcome.next.inj h
    exact appendsAtMostTwo_of_trace_eq rfl

/-- Settles O39: fetching does not touch the trace, and the instruction that runs appends at most two operations. -/
theorem traceOnlyGrows : Obligations.TraceOnlyGrows := by
  intro s t h
  obtain ⟨es, p, ⟨i, hx⟩ | rfl⟩ := step_next_exec h
  · obtain ⟨ops, htrace, hlen⟩ := exec_appendsAtMostTwo hx
    exact ⟨ops, htrace, hlen⟩
  · exact ⟨[], by simp, by simp⟩

end Sys2Proof.Machine

/-! # Proofs: the eight registers and the transport (spec/10_state.md) -/

namespace Sys2Proof.Machine

open Sys2Proof.Safety

/-! ## The state invariants before a rule runs -/

/-- R180 speaks of registers only, so it holds of the state in which what is fetched runs. -/
theorem stateInv_taken {s : State} (h : StateInv s) : StateInv (taken s) :=
  ⟨h.frame_le, h.committed_le, h.aligned, h.fresh, h.inImage, h.atChallenge, h.consumed, h.held, h.errors⟩

theorem tpHeld_of_holdsTransport {s : State} (hinv : StateInv s) (h : holdsTransport s.state) : s.tpHeld = true :=
  hinv.held.2 h

theorem tpHeld_of_idle {s : State} (hinv : StateInv s) (h : s.state = .idle) : s.tpHeld = false := by
  have hnot : ¬ holdsTransport s.state := by simp [holdsTransport, h]
  simpa [← hinv.held] using hnot

/-! ## The transport's bracketing -/

theorem bracketed_append (tr ops : List TransportOp) :
    bracketed (tr ++ ops) = ops.foldl bracketStep (bracketed tr) :=
  List.foldl_append

/-- The bracketing after more operations: they must lead from the old `tp_held` to the new one. -/
theorem transportBracketed_append {s t : State} {ops : List TransportOp} (hb : transportBracketed s)
    (htrace : t.trace = s.trace ++ ops) (hops : ops.foldl bracketStep (some s.tpHeld) = some t.tpHeld) :
    transportBracketed t := by
  unfold transportBracketed at *
  rw [htrace, bracketed_append, hb, hops]

theorem transportBracketed_unchanged {s t : State} (hb : transportBracketed s) (htrace : t.trace = s.trace)
    (hheld : t.tpHeld = s.tpHeld) : transportBracketed t :=
  transportBracketed_append (ops := []) hb (by simpa using htrace) (by simp [hheld])

/-- Messages emitted while the transport is held leave it held. -/
theorem transportBracketed_messages {s t : State} {ops : List TransportOp} (hb : transportBracketed s)
    (hheld : s.tpHeld = true) (htrace : t.trace = s.trace ++ ops) (hsame : t.tpHeld = s.tpHeld)
    (hops : ops.foldl bracketStep (some true) = some true) : transportBracketed t :=
  transportBracketed_append hb htrace (by rw [hsame, hheld, hops])

/-- The abort entry releases the transport exactly if it is held (R200). -/
theorem transportBracketed_abortEntry {s : State} (hb : transportBracketed s) (k : ErrorKind) :
    transportBracketed (abortEntry k s) := by
  by_cases hheld : s.tpHeld = true
  · exact transportBracketed_append (ops := [.close]) hb (by simp [hheld]) (by rw [hheld]; rfl)
  · exact transportBracketed_unchanged hb (by simp [hheld]) (by simp [hheld])

/-- The challenge and the marker that may precede it are messages, so a held transport stays held. -/
theorem transportBracketed_sendChallenge {s : State} (hb : transportBracketed s) (hheld : s.tpHeld = true)
    (marker : Bool) (f : Frame) : transportBracketed (sendChallenge marker f s) := by
  cases marker with
  | false => exact transportBracketed_messages (ops := [crcChallengeMsg s.params f]) hb hheld (by simp) rfl rfl
  | true =>
    exact transportBracketed_messages (ops := [lastFrameMarkMsg, crcChallengeMsg s.params f]) hb hheld (by simp) rfl rfl

/-- Every rule keeps the bracketing: `Connect` comes only from `Idle`, messages and `Close` only while the transport
is held (R27, R180 (h)). -/
theorem Moves.keeps_transportBracketed {s t : State} (h : Moves s t) (hinv : StateInv s)
    (hb : transportBracketed s) : transportBracketed t := by
  cases h with
  | stay => exact hb
  | startMisaligned | startEmpty | eraseDone | crcEqual | crcUnequal | cancelRecorded =>
    exact transportBracketed_unchanged hb rfl rfl
  | startAccepted len hs =>
    have hheld := tpHeld_of_idle hinv hs
    exact transportBracketed_append (ops := [.connect, programStartMsg s.params]) hb (by simp) (by rw [hheld]; rfl)
  | abort k => exact transportBracketed_abortEntry hb k
  | frameSent f hs =>
    have hheld := tpHeld_of_holdsTransport hinv (by simp [holdsTransport, hs])
    exact transportBracketed_messages hb hheld (sendFrame_trace f _) rfl rfl
  | challengeSent f marker hs =>
    have hheld := tpHeld_of_holdsTransport hinv (by simp [holdsTransport, hs])
    exact transportBracketed_sendChallenge (transportBracketed_unchanged hb rfl rfl) hheld marker f
  | pageAccepted hs =>
    have hheld := tpHeld_of_holdsTransport hinv (by simp [holdsTransport, hs])
    exact transportBracketed_messages hb hheld (emit_trace (crcOkMsg s.params) s) rfl rfl
  | pageRejected hs =>
    have hheld := tpHeld_of_holdsTransport hinv (by simp [holdsTransport, hs])
    exact transportBracketed_messages hb hheld (emit_trace (crcFailMsg s.params) s) rfl rfl
  | completed hs =>
    have hheld := tpHeld_of_holdsTransport hinv (by simp [holdsTransport, hs])
    exact transportBracketed_append (ops := [programEndMsg s.params, .close]) hb (by simp) (by rw [hheld]; rfl)
  | wasReset hheld => exact transportBracketed_unchanged hb rfl hheld.symm

/-- Settles O44: fetching touches neither the trace nor `tp_held`, and every rule keeps the bracketing. -/
theorem everyStepKeepsTheTransportBracketed : Obligations.EveryStepKeepsTheTransportBracketed := by
  intro s t hp hinv hb hstep
  exact (step_moves hp hstep).keeps_transportBracketed (stateInv_taken hinv) hb

/-! ## The widths of the registers -/

/-- A length that fits ADDR_W bits has a count of frames that fits IDX_W bits, also where ADDR_W is below 3 (log 32). -/
theorem totalFrames_lt_two_pow_idxW {p : Params} {len : Nat} (h : len < 2 ^ p.addrW) :
    totalFrames len < 2 ^ idxW p := by
  unfold totalFrames idxW
  by_cases hw : 3 ≤ p.addrW
  · have hpow : 2 ^ p.addrW = 2 ^ (p.addrW - 3) * 8 := by rw [← Nat.pow_sub_mul_pow 2 hw]
    rw [Nat.div_lt_iff_lt_mul (by decide), ← hpow]
    exact h
  · have hpow : 2 ^ p.addrW ≤ 2 ^ 3 := Nat.pow_le_pow_right (by decide) (by omega)
    rw [Nat.div_eq_of_lt (by omega)]
    exact Nat.two_pow_pos _

/-- Every rule keeps the two naturals inside their widths: START is given a length that fits, and a committed index
is at most the number of frames (R139). -/
theorem Moves.keeps_registersFit {s t : State} (h : Moves s t) (hinv : StateInv s) (hfit : registersFit s) :
    registersFit t := by
  obtain ⟨hlen, hidx⟩ := hfit
  cases h with
  | startAccepted len _ _ _ hw => exact ⟨hw, Nat.two_pow_pos _⟩
  | eraseDone => exact ⟨hlen, Nat.two_pow_pos _⟩
  | pageAccepted hs =>
    obtain ⟨-, hcur⟩ := hinv.inImage (by simp [onFrame, hs])
    have hle : committedAfter s ≤ totalFrames s.imageLen := hcur
    exact ⟨hlen, hle.trans_lt (totalFrames_lt_two_pow_idxW hlen)⟩
  | wasReset => exact ⟨Nat.two_pow_pos _, Nat.two_pow_pos _⟩
  | stay | startMisaligned | startEmpty | abort | frameSent | challengeSent | crcEqual | crcUnequal | pageRejected |
      completed | cancelRecorded => exact ⟨hlen, hidx⟩

/-- Settles O47: fetching writes no register, and every rule keeps the two inside their widths. -/
theorem everyStepKeepsTheRegistersInTheirWidths : Obligations.EveryStepKeepsTheRegistersInTheirWidths := by
  intro s t hp hinv hfit hstep
  exact (step_moves hp hstep).keeps_registersFit (stateInv_taken hinv) hfit

/-! ## The current frame -/

/-- Settles O49: the committed index is a multiple of 250 and the current index is below the number of frames. -/
theorem frameInATransferIsInsideTheImage : Obligations.FrameInATransferIsInsideTheImage := by
  intro s hinv hs
  obtain ⟨hpage, hcur⟩ := hinv.inImage hs
  have hend : 8 * curIndex s + 8 ≤ s.imageLen := by
    unfold totalFrames at hcur
    omega
  refine ⟨?_, ?_, ?_⟩
  · rw [Ne, frameAt_eq_outOfRange]
    omega
  · have hlt := s.frameInPage.isLt
    unfold curIndex
    omega
  · unfold byteAddr
    omega

/-! ## The status view -/

theorem statusView_eq_none_iff (s : State) (n : Nat) : statusView s n = none ↔ 7 ≤ n := by
  match n with
  | 0 | 1 | 2 | 3 | 4 | 5 | 6 => simp [statusView]
  | _ + 7 => simp [statusView]

/-- A view shows no more bits than its width in R32. -/
theorem statusView_lt_of_registersFit {s : State} (hfit : registersFit s) {n v : Nat} (h : statusView s n = some v) :
    ∃ w, statusWidth s.params n = some w ∧ v < 2 ^ w := by
  obtain ⟨hlen, hidx⟩ := hfit
  match n, h with
  | 0, h => exact ⟨4, rfl, Option.some.inj h ▸ (stateNumber s.state).isLt⟩
  | 1, h => exact ⟨4, rfl, Option.some.inj h ▸ (errorNumber s.error).isLt⟩
  | 2, h => exact ⟨idxW s.params, rfl, Option.some.inj h ▸ hidx⟩
  | 3, h => exact ⟨8, rfl, Option.some.inj h ▸ s.frameInPage.isLt.trans (by decide)⟩
  | 4, h => exact ⟨16, rfl, Option.some.inj h ▸ s.crcAccumulator.isLt⟩
  | 5, h => exact ⟨s.params.addrW, rfl, Option.some.inj h ▸ hlen⟩
  | 6, h => exact ⟨2, rfl, Option.some.inj h ▸ (statusFlags s).isLt⟩

theorem statusFlags_toNat (s : State) : (statusFlags s).toNat = s.tpHeld.toNat + 2 * s.cancelReq.toNat := by
  unfold statusFlags
  cases s.tpHeld <;> cases s.cancelReq <;> rfl

/-- `state` is numbered in the order of R21. -/
theorem stateNumber_toNat (st : ProtoState) :
    (stateNumber st).toNat = [ProtoState.idle, .erasing, .transferring, .awaitingPageCrc, .pageAccepted, .pageRejected,
      .completing, .done, .aborted].idxOf st := by
  cases st <;> rfl

/-- `error` is numbered in the order of R26. -/
theorem errorNumber_toNat (k : ErrorKind) :
    (errorNumber k).toNat = [ErrorKind.none, .eraseFailed, .transportTimeout, .malformedResponse, .cancelled,
      .imageNotFrameAligned, .imageEmpty, .outOfRange].idxOf k := by
  cases k <;> rfl

/-- Settles O59, view by view. -/
theorem statusViewsShowTheRegisters : Obligations.StatusViewsShowTheRegisters := by
  intro s _ hfit
  exact ⟨statusView_eq_none_iff s, fun _ _ => statusView_lt_of_registersFit hfit, rfl, rfl, rfl, rfl,
    congrArg some (statusFlags_toNat s), congrArg some (stateNumber_toNat s.state),
    congrArg some (errorNumber_toNat s.error)⟩

/-! ## The state after reset -/

/-- R35: every view reads zero after reset. -/
theorem statusView_reset {n : Nat} (h : n < 7) : statusView State.reset n = some 0 := by
  interval_cases n <;> rfl

/-- R180 after reset: `Idle`, no error, the transport not held; the other clauses speak of other states. -/
theorem stateInv_reset : StateInv State.reset where
  frame_le := by decide
  committed_le := absurd rfl
  aligned := absurd rfl
  fresh := nofun
  inImage := by simp [onFrame, State.reset]
  atChallenge := by simp [challenged, State.reset]
  consumed := by simp [State.reset]
  held := by simp [holdsTransport, State.reset]
  errors := by simp [errorFits, State.reset]

theorem registersFit_reset : registersFit State.reset := ⟨Nat.two_pow_pos _, Nat.two_pow_pos _⟩

/-- The accumulator invariant speaks of no frame in `Idle`. -/
theorem accumulatorExact_of_idle {s : State} (h : s.state = .idle) : accumulatorExact s := by
  simp [accumulatorExact, challenged, h]

/-- The delivery property speaks of no transfer in `Idle`. -/
theorem deliveryExact_of_idle {s : State} (h : s.state = .idle) : deliveryExact s := by
  simp [deliveryExact, challenged, h]

/-- Settles O41: the registers are those of R35 and nothing has been emitted. -/
theorem resetMeetsEveryInvariant : Obligations.ResetMeetsEveryInvariant :=
  ⟨fun _ => statusView_reset, stateInv_reset, registersFit_reset, accumulatorExact_of_idle rfl, rfl,
    deliveryExact_of_idle rfl, nofun, nofun, Memory.reset_wf, rfl⟩

end Sys2Proof.Machine

/-! # Proofs: which row writes and reads which register (spec/10_state.md R20) -/

namespace Sys2Proof.Machine

open Sys2Proof.Safety

/-! ## The writers of the registers -/

/-- What a row leaves behind, by the registers that it may write (R20, column "written by"). A constructor writes out
the next state with the fields that may differ. START and RESET may write any register, so nothing is said of theirs. -/
inductive RegisterWrites (s : State) : Instr → State → Prop where
  | noRegister (i : Instr) (tr : List TransportOp) (o : OpResult) :
      RegisterWrites s i { s with trace := tr, opResult := o }
  | abort (i : Instr) (k : ErrorKind) : RegisterWrites s i (abortEntry k s)
  | start (len : Nat) (t : State) : RegisterWrites s (.start len) t
  | startResponse {i : Instr} (r : List Byte) (hi : i = .eraseResp r ∨ i = .rspStartStatus r) :
      RegisterWrites s i { zeroCursor s with state := .transferring }
  | crcResponse {i : Instr} (r : List Byte) (hi : i = .crcResp r ∨ i = .rspCrcAck r) (st : ProtoState) :
      RegisterWrites s i { s with state := st }
  | frame (st : ProtoState) (p : Fin 250) (a : Crc) (tr : List TransportOp) :
      RegisterWrites s .frame { s with state := st, frameInPage := p, crcAccumulator := a, trace := tr }
  | pageAccept (st : ProtoState) (n : Nat) (p : Fin 250) (a : Crc) (tr : List TransportOp) :
      RegisterWrites s .pageAccept
        { s with state := st, committedFrameIndex := n, frameInPage := p, crcAccumulator := a, trace := tr }
  | pageReject (st : ProtoState) (p : Fin 250) (a : Crc) (tr : List TransportOp) :
      RegisterWrites s .pageReject { s with state := st, frameInPage := p, crcAccumulator := a, trace := tr }
  | complete (st : ProtoState) (held : Bool) (tr : List TransportOp) :
      RegisterWrites s .complete { s with state := st, tpHeld := held, trace := tr }
  | cancel (c : Bool) : RegisterWrites s .cancel { s with cancelReq := c }
  | reset (t : State) : RegisterWrites s .reset t
  | crcClear : RegisterWrites s .crcClear (clearCrc s)

theorem withFrame_registerWrites {i : Instr} {index : Nat} {s t : State} {k : Frame → State}
    (hk : ∀ f, RegisterWrites s i (k f)) (h : withFrame index s k = .next t) : RegisterWrites s i t := by
  rcases withFrame_next h with ⟨f, -, rfl⟩ | ⟨-, rfl⟩
  · exact hk f
  · exact .abort i _

theorem acceptStartStatus_registerWrites {i : Instr} {r : List Byte} (hi : i = .eraseResp r ∨ i = .rspStartStatus r)
    (s : State) : RegisterWrites s i (acceptStartStatus r s) := by
  rcases acceptStartStatus_cases r s with ⟨-, h⟩ | ⟨_, _, -, -, h⟩ | ⟨_, _, -, -, h⟩ <;> rw [h]
  · exact .abort i _
  · exact .abort i _
  · exact .startResponse r hi

theorem acceptCrcAck_registerWrites {i : Instr} {r : List Byte} (hi : i = .crcResp r ∨ i = .rspCrcAck r)
    (s : State) : RegisterWrites s i (acceptCrcAck r s) := by
  rcases acceptCrcAck_cases r s with ⟨-, h⟩ | ⟨-, h⟩ | ⟨_, -, -, h⟩ <;> rw [h]
  · exact .abort i _
  · exact .crcResponse r hi _
  · exact .crcResponse r hi _

theorem processFrame_registerWrites (s : State) (f : Frame) : RegisterWrites s .frame (processFrame s f) := by
  rcases processFrame_cases s f with ⟨-, h⟩ | ⟨_, -, h⟩ <;> rw [h]
  · exact .frame _ _ _ _
  · exact .frame _ _ _ _

/-- Every row writes only the registers that `RegisterWrites` lists for it. -/
theorem exec_registerWrites {i : Instr} {s t : State} (h : exec i s = .next t) : RegisterWrites s i t := by
  cases i
  case msgProgramStart | msgLastFrameMark | msgCrcOk | msgCrcFail | msgProgramEnd | crcUpdate | crcBitstep | crcFold8 |
      crcSeq | byteAddr | totalFrames | isLastFrame | isPageBoundary | curIndex | classify =>
    obtain rfl := Host.Outcome.next.inj h
    exact .noRegister _ _ _
  case msgWriteFrame | msgCrcChallenge | frameAt =>
    exact withFrame_registerWrites (fun _ => .noRegister _ _ _) h
  case crcClear =>
    obtain rfl := Host.Outcome.next.inj h
    exact .crcClear
  case rspStartStatus r =>
    obtain rfl := eq_of_guarded_next h
    exact acceptStartStatus_registerWrites (.inr rfl) s
  case eraseResp r =>
    obtain rfl := eq_of_guarded_next h
    exact acceptStartStatus_registerWrites (.inl rfl) s
  case rspCrcAck r =>
    obtain rfl := eq_of_guarded_next h
    exact acceptCrcAck_registerWrites (.inr rfl) s
  case crcResp r =>
    obtain rfl := eq_of_guarded_next h
    exact acceptCrcAck_registerWrites (.inl rfl) s
  case eraseTmo | crcTmo | frameCancel =>
    obtain rfl := eq_of_guarded_next h
    exact .abort _ _
  case start len => exact .start len t
  case startBusy =>
    obtain rfl := eq_of_guarded_next h
    exact .noRegister _ _ _
  case frame =>
    simp only [exec, execFrame] at h
    split_ifs at h
    exact withFrame_registerWrites (processFrame_registerWrites s) h
  case pageAccept =>
    obtain rfl := eq_of_guarded_next h
    exact .pageAccept _ _ _ _ _
  case pageReject =>
    obtain rfl := eq_of_guarded_next h
    exact .pageReject _ _ _ _
  case complete =>
    obtain rfl := eq_of_guarded_next h
    exact .complete _ _ _
  case cancel =>
    obtain rfl := Host.Outcome.next.inj h
    split
    · exact .cancel true
    · exact .cancel s.cancelReq
  case reset => exact .reset t

/-- Settles O37, by the registers that each row may write. -/
theorem registersAreWrittenOnlyByTheirRules : Obligations.RegistersAreWrittenOnlyByTheirRules := by
  intro i s t h
  cases exec_registerWrites h with
  | noRegister => simp
  | abort k => simp [← abortEntry_eq_abortedFrom]
  | start | reset => simp
  | startResponse r hi => rcases hi with rfl | rfl <;> simp
  | crcResponse r hi => rcases hi with rfl | rfl <;> simp
  | frame | pageAccept | pageReject | complete | cancel | crcClear => simp

/-! ## The readers of `error` and `cancel_req` -/

/-- The state with `error` and `cancel_req` replaced. -/
def withErrorCancel (k : ErrorKind) (c : Bool) (s : State) : State := { s with error := k, cancelReq := c }

/-- `u` comes from replacing `error` by `k` and `cancel_req` by `c` before a row that leads from `s` to `t`: it differs
from `t` at most in the two, and there only where the row kept the old value. -/
def agreesElsewhere (s : State) (k : ErrorKind) (c : Bool) (t u : State) : Prop :=
  withErrorCancel t.error t.cancelReq u = t ∧
    (u.error = t.error ∨ (t.error = s.error ∧ u.error = k)) ∧
    (u.cancelReq = t.cancelReq ∨ (t.cancelReq = s.cancelReq ∧ u.cancelReq = c))

/-- The outcome is a next state that the replaced registers influence nowhere else. -/
def uninfluenced (s : State) (k : ErrorKind) (c : Bool) (before after : Host.Outcome State Fault Refusal) : Prop :=
  ∀ t, before = .next t → ∃ u, after = .next u ∧ agreesElsewhere s k c t u

section
variable {s : State} {k : ErrorKind} {c : Bool}

/-- A row that writes neither register leaves the replaced values where they were put. -/
theorem agreesElsewhere_kept {t : State} (herror : t.error = s.error) (hcancel : t.cancelReq = s.cancelReq) :
    agreesElsewhere s k c t (withErrorCancel k c t) :=
  ⟨rfl, .inr ⟨herror, rfl⟩, .inr ⟨hcancel, rfl⟩⟩

/-- The abort entry writes `error` and keeps `cancel_req`. -/
theorem agreesElsewhere_abortEntry (e : ErrorKind) :
    agreesElsewhere s k c (abortEntry e s) (abortEntry e (withErrorCancel k c s)) :=
  ⟨rfl, .inl rfl, .inr ⟨rfl, rfl⟩⟩

theorem agreesElsewhere_acceptStartStatus (r : List Byte) :
    agreesElsewhere s k c (acceptStartStatus r s) (acceptStartStatus r (withErrorCancel k c s)) := by
  unfold acceptStartStatus
  cases startStatus r with
  | malformed | eraseFailed => exact agreesElsewhere_abortEntry _
  | proceed => exact agreesElsewhere_kept rfl rfl

theorem agreesElsewhere_acceptCrcAck (r : List Byte) :
    agreesElsewhere s k c (acceptCrcAck r s) (acceptCrcAck r (withErrorCancel k c s)) := by
  have hparams : (withErrorCancel k c s).params = s.params := rfl
  unfold acceptCrcAck
  rw [hparams]
  cases decodeCrcAck s.params.byteDecode r with
  | none => exact agreesElsewhere_abortEntry _
  | some v => exact agreesElsewhere_kept rfl rfl

theorem agreesElsewhere_processFrame (f : Frame) :
    agreesElsewhere s k c (processFrame s f) (processFrame (withErrorCancel k c s) f) := by
  have hclass : classify (withErrorCancel k c s) = classify s := rfl
  unfold processFrame
  rw [hclass]
  cases classify s with
  | midPage => exact agreesElsewhere_kept rfl rfl
  | challenge marker => exact agreesElsewhere_kept rfl rfl

theorem uninfluenced_next {t u : State} (h : agreesElsewhere s k c t u) : uninfluenced s k c (.next t) (.next u) := by
  rintro t' ht
  obtain rfl := Host.Outcome.next.inj ht
  exact ⟨u, rfl, h⟩

theorem uninfluenced_refused (r r' : Refusal) : uninfluenced s k c (.refused r) (.refused r') :=
  fun _ h => by simp at h

/-- Branches on a condition that reads neither register. -/
theorem uninfluenced_ite {p : Prop} [Decidable p] {x y x' y' : Host.Outcome State Fault Refusal}
    (hx : uninfluenced s k c x x') (hy : uninfluenced s k c y y') :
    uninfluenced s k c (if p then x else y) (if p then x' else y') := by
  split
  · exact hx
  · exact hy

/-- A guard that reads neither register. -/
theorem uninfluenced_guarded {p : Prop} [Decidable p] {r : Refusal} {t u : State} (h : agreesElsewhere s k c t u) :
    uninfluenced s k c (if p then .next t else .refused r) (if p then .next u else .refused r) :=
  uninfluenced_ite (uninfluenced_next h) (uninfluenced_refused r r)

/-- FRAME_AT reads the image and `image_len` only. -/
theorem uninfluenced_withFrame {index : Nat} {g g' : Frame → State} (hg : ∀ f, agreesElsewhere s k c (g f) (g' f)) :
    uninfluenced s k c (withFrame index s g) (withFrame index (withErrorCancel k c s) g') := by
  have hread : frameAt (withErrorCancel k c s) index = frameAt s index := frameAt_depends rfl rfl index
  unfold withFrame
  rw [hread]
  cases frameAt s index with
  | ok f => exact uninfluenced_next (hg f)
  | outOfRange => exact uninfluenced_next (agreesElsewhere_abortEntry _)
  | absent => exact uninfluenced_refused _ _

/-- No row but FRAME and FRAME.CANCEL is influenced by `error` or `cancel_req`. -/
theorem exec_uninfluenced_by_errorCancel {i : Instr} (hframe : i ≠ .frame) (hcancel : i ≠ .frameCancel) :
    uninfluenced s k c (exec i s) (exec i (withErrorCancel k c s)) := by
  cases i
  case msgProgramStart | msgLastFrameMark | msgCrcOk | msgCrcFail | msgProgramEnd | crcUpdate | crcBitstep | crcClear |
      crcFold8 | crcSeq | byteAddr | totalFrames | isLastFrame | isPageBoundary | curIndex | classify =>
    exact uninfluenced_next (agreesElsewhere_kept rfl rfl)
  case msgWriteFrame | msgCrcChallenge | frameAt =>
    exact uninfluenced_withFrame fun _ => agreesElsewhere_kept rfl rfl
  case rspStartStatus r | eraseResp r => exact uninfluenced_guarded (agreesElsewhere_acceptStartStatus r)
  case rspCrcAck r | crcResp r => exact uninfluenced_guarded (agreesElsewhere_acceptCrcAck r)
  case eraseTmo | crcTmo => exact uninfluenced_guarded (agreesElsewhere_abortEntry _)
  case start len =>
    refine uninfluenced_ite ?busy (uninfluenced_ite ?misaligned (uninfluenced_ite ?empty ?accepted))
    case busy => exact uninfluenced_next (agreesElsewhere_kept rfl rfl)
    case misaligned | empty => exact uninfluenced_next ⟨rfl, .inl rfl, .inr ⟨rfl, rfl⟩⟩
    case accepted => exact uninfluenced_next ⟨rfl, .inl rfl, .inl rfl⟩
  case startBusy | pageAccept | pageReject | complete => exact uninfluenced_guarded (agreesElsewhere_kept rfl rfl)
  case cancel =>
    have hstate : (withErrorCancel k c s).state = s.state := rfl
    simp only [exec, execCancel, hstate]
    split
    · exact uninfluenced_next ⟨rfl, .inr ⟨rfl, rfl⟩, .inl rfl⟩
    · exact uninfluenced_next (agreesElsewhere_kept rfl rfl)
  case reset =>
    exact uninfluenced_ite (uninfluenced_refused _ _) (uninfluenced_next ⟨rfl, .inl rfl, .inl rfl⟩)
  case frame => exact absurd rfl hframe
  case frameCancel => exact absurd rfl hcancel

/-- No row is influenced by `error`: FRAME and FRAME.CANCEL read `cancel_req`, which stays. -/
theorem exec_uninfluenced_by_error (i : Instr) :
    uninfluenced s k s.cancelReq (exec i s) (exec i (withErrorCancel k s.cancelReq s)) := by
  by_cases hframe : i = .frame
  · subst hframe
    exact uninfluenced_ite (uninfluenced_withFrame agreesElsewhere_processFrame) (uninfluenced_refused _ _)
  by_cases hcancel : i = .frameCancel
  · subst hcancel
    exact uninfluenced_guarded (agreesElsewhere_abortEntry _)
  exact exec_uninfluenced_by_errorCancel hframe hcancel

end

/-- Settles O40: replacing `error`, or both registers, before a row shows in the next state in those registers only. -/
theorem errorAndCancelRequestInfluenceNothingElse : Obligations.ErrorAndCancelRequestInfluenceNothingElse := by
  refine ⟨fun i s t k h => ?_, fun i s t k c hframe hcancel h => ?_⟩
  · obtain ⟨u, hu, hagree, herror, hreq⟩ := exec_uninfluenced_by_error i t h
    have hsame : u.cancelReq = t.cancelReq := by
      rcases hreq with hreq | ⟨ht, hreq⟩
      · exact hreq
      · rw [hreq, ht]
    rw [← hsame] at hagree
    exact ⟨u, hu, hagree, herror⟩
  · exact exec_uninfluenced_by_errorCancel hframe hcancel t h

end Sys2Proof.Machine

/-! # Proofs: the emitted messages and the image port (spec/20_memory.md) -/

namespace Sys2Proof.Machine

open Sys2Proof.Safety

/-! ## What decodes is an encoded message -/

/-- A code decodes from its own byte alone (R105). -/
theorem codeByte_of_codeOfByte {b : Byte} {c : CommandCode} (h : codeOfByte b = some c) : codeByte c = b := by
  simpa using List.find?_some h

/-- A kind and a code that make a message make the one with their header word (R96 to R102). -/
theorem messageOf_eq_instr {kind : Bool} {c : CommandCode} {rest rest' : List Byte} {i : Instr}
    (h : messageOf kind c rest = .instr i rest') :
    rest = rest' ∧ encodeHeader i = some (headerWord kind .update c) := by
  unfold messageOf at h
  split at h <;> cases h <;> exact ⟨rfl, rfl⟩

/-- A header word is its three fields (R71). -/
theorem headerWord_fields (h : BitVec 20) :
    BitVec.ofBool (h.getLsbD 19) ++ h.extractLsb' 8 11 ++ h.extractLsb' 0 8 = h := by
  have hkind : BitVec.ofBool (h.getLsbD 19) = h.extractLsb' 19 1 := by
    ext k hk
    obtain rfl : k = 0 := by omega
    simp
  rw [hkind, BitVec.extractLsb'_append_extractLsb'_eq_extractLsb' (by rfl),
    BitVec.extractLsb'_append_extractLsb'_eq_extractLsb' (by rfl)]
  exact BitVec.extractLsb'_eq_self

/-- A word that decodes is the decoded message's header word (R51, R70, R71, R106). -/
theorem decodeWord_eq_instr {h : BitVec 20} {rest rest' : List Byte} {i : Instr}
    (hd : decodeWord h rest = .instr i rest') : rest = rest' ∧ encodeHeader i = some h := by
  simp only [decodeWord] at hd
  split_ifs at hd with hack hupdate
  cases hcode : codeOfByte (h.extractLsb' 0 8) with
  | none => simp [hcode] at hd
  | some c =>
    rw [hcode] at hd
    obtain ⟨hrest, hi⟩ := messageOf_eq_instr hd
    have hword : headerWord (h.getLsbD 19) .update c = h := by
      rw [headerWord, codeByte_of_codeOfByte hcode, ← not_not.1 hupdate, headerWord_fields]
    exact ⟨hrest, hi.trans (congrArg some hword)⟩

/-- Three bytes with no bit above bit 19 are the bytes of the word that they make (log 8). -/
theorem headerBytes_of_bytes {b0 b1 b2 : Byte} (hhigh : b2.extractLsb' 4 4 = 0) :
    headerBytes (b2.extractLsb' 0 4 ++ b1 ++ b0) = [b0, b1, b2] := by
  have h0 : (b2.extractLsb' 0 4 ++ b1 ++ b0).extractLsb' 0 8 = b0 := BitVec.extractLsb'_append_eq_right
  have h1 : (b2.extractLsb' 0 4 ++ b1 ++ b0).extractLsb' 8 8 = b1 := by
    rw [BitVec.extractLsb'_append_eq_of_le (by decide), BitVec.extractLsb'_append_eq_right]
  have h2 : (b2.extractLsb' 0 4 ++ b1 ++ b0).extractLsb' 16 4 = b2.extractLsb' 0 4 := by
    rw [BitVec.extractLsb'_append_eq_of_le (by decide), BitVec.extractLsb'_append_eq_left]
  have htop : (0 : BitVec 4) ++ b2.extractLsb' 0 4 = b2 := by rw [← hhigh, BitVec.extractLsb'_append_extractLsb']
  rw [headerBytes, h0, h1, h2, htop]

/-- Settles O3: what decodes begins with three bytes, and the word in them is the header word of the message decoded. -/
theorem onlyEncodedMessagesDecode : Obligations.OnlyEncodedMessagesDecode := by
  intro i bytes rest hd
  match bytes, hd with
  | [], hd | [_], hd | [_, _], hd => simp [decodeHeader] at hd
  | b0 :: b1 :: b2 :: payload, hd =>
    simp only [decodeHeader] at hd
    split_ifs at hd with hhigh
    obtain ⟨rfl, hi⟩ := decodeWord_eq_instr hd
    have hbytes := headerBytes_of_bytes (b0 := b0) (b1 := b1) (not_not.1 hhigh)
    exact ⟨[b0, b1, b2], by rw [encode, hi, Option.map_some, hbytes], rfl⟩

/-! ## The form of the emitted operations -/

@[simp] theorem rep_length (v : Byte) (n : Nat) : (rep v n).length = n := List.length_replicate

/-- A marker's length is in 3..7 (R86). -/
theorem markerLen_bounds (n : MarkerExtra) : 3 ≤ markerLen n ∧ markerLen n ≤ 7 := by
  have := n.isLt
  unfold markerLen
  omega

@[simp] theorem opFits_programStartMsg (p : Params) : opFits (programStartMsg p) = true := by
  simp [opFits, programStartMsg, lengthFits, markerLen_bounds, startRespChannel]

@[simp] theorem opFits_writeFrameMsg (f : Frame) : opFits (writeFrameMsg f) = true := rfl

@[simp] theorem opFits_lastFrameMarkMsg : opFits lastFrameMarkMsg = true := rfl

@[simp] theorem opFits_crcChallengeMsg (p : Params) (f : Frame) : opFits (crcChallengeMsg p f) = true := rfl

@[simp] theorem opFits_crcOkMsg (p : Params) : opFits (crcOkMsg p) = true := by
  simp [opFits, crcOkMsg, lengthFits, markerLen_bounds]

@[simp] theorem opFits_crcFailMsg (p : Params) : opFits (crcFailMsg p) = true := by
  simp [opFits, crcFailMsg, lengthFits, markerLen_bounds]

@[simp] theorem opFits_programEndMsg (p : Params) : opFits (programEndMsg p) = true := by
  simp [opFits, programEndMsg, lengthFits, markerLen_bounds]

/-- One more operation of its form keeps the trace in form. -/
theorem traceFits_emit {s : State} {op : TransportOp} (hop : opFits op = true) (hs : traceFits s) :
    traceFits (emit op s) := by
  intro op' hmem
  rcases List.mem_append.1 hmem with hmem | hmem
  · exact hs op' hmem
  · rwa [List.mem_singleton.1 hmem]

theorem traceFits_of_trace_eq {s t : State} (h : t.trace = s.trace) (hs : traceFits s) : traceFits t := by
  rwa [traceFits, h]

section
variable {s : State} (hs : traceFits s)
include hs

theorem traceFits_abortEntry (k : ErrorKind) : traceFits (abortEntry k s) := by
  by_cases hheld : s.tpHeld = true
  · exact traceFits_of_trace_eq (by simp [hheld]) (traceFits_emit (op := .close) rfl hs)
  · exact traceFits_of_trace_eq (by simp [hheld]) hs

theorem traceFits_withFrame {index : Nat} {t : State} {k : Frame → State} (hk : ∀ f, traceFits (k f))
    (h : withFrame index s k = .next t) : traceFits t := by
  rcases withFrame_next h with ⟨f, -, rfl⟩ | ⟨-, rfl⟩
  · exact hk f
  · exact traceFits_abortEntry hs _

/-- FRAME emits the frame, or its challenge with the marker of the image's last frame before it (R155). -/
theorem traceFits_processFrame (f : Frame) : traceFits (processFrame s f) := by
  rcases processFrame_cases s f with ⟨-, h⟩ | ⟨marker, -, h⟩ <;> rw [h]
  · exact traceFits_emit (opFits_writeFrameMsg f) hs
  · cases marker with
    | false => exact traceFits_of_trace_eq (by simp) (traceFits_emit (opFits_crcChallengeMsg s.params f) hs)
    | true => exact traceFits_emit (opFits_crcChallengeMsg s.params f) (traceFits_emit opFits_lastFrameMarkMsg hs)

theorem traceFits_acceptStartStatus (r : List Byte) : traceFits (acceptStartStatus r s) := by
  rcases acceptStartStatus_cases r s with ⟨-, h⟩ | ⟨_, _, -, -, h⟩ | ⟨_, _, -, -, h⟩ <;> rw [h]
  · exact traceFits_abortEntry hs _
  · exact traceFits_abortEntry hs _
  · exact hs

theorem traceFits_acceptCrcAck (r : List Byte) : traceFits (acceptCrcAck r s) := by
  rcases acceptCrcAck_cases r s with ⟨-, h⟩ | ⟨-, h⟩ | ⟨_, -, -, h⟩ <;> rw [h]
  · exact traceFits_abortEntry hs _
  · exact hs
  · exact hs

/-- Every row keeps the trace in form, whatever the state it runs in. -/
theorem exec_keeps_traceFits {i : Instr} {t : State} (h : exec i s = .next t) : traceFits t := by
  cases i
  case msgProgramStart | msgLastFrameMark | msgCrcOk | msgCrcFail | msgProgramEnd =>
    obtain rfl := Host.Outcome.next.inj h
    exact traceFits_emit (by simp) hs
  case msgWriteFrame | msgCrcChallenge => exact traceFits_withFrame hs (fun _ => traceFits_emit (by simp) hs) h
  case frameAt =>
    refine traceFits_withFrame hs (fun _ => ?_) h
    exact hs
  case crcUpdate | crcBitstep | crcClear | crcFold8 | crcSeq | byteAddr | totalFrames | isLastFrame | isPageBoundary |
      curIndex | classify =>
    obtain rfl := Host.Outcome.next.inj h
    exact hs
  case rspStartStatus r | eraseResp r =>
    obtain rfl := eq_of_guarded_next h
    exact traceFits_acceptStartStatus hs r
  case rspCrcAck r | crcResp r =>
    obtain rfl := eq_of_guarded_next h
    exact traceFits_acceptCrcAck hs r
  case eraseTmo | crcTmo | frameCancel =>
    obtain rfl := eq_of_guarded_next h
    exact traceFits_abortEntry hs _
  case start =>
    simp only [exec, execStart] at h
    split_ifs at h <;> obtain rfl := Host.Outcome.next.inj h
    · exact hs
    · exact hs
    · exact hs
    · exact traceFits_emit (opFits_programStartMsg _) (traceFits_emit rfl hs)
  case startBusy =>
    obtain rfl := eq_of_guarded_next h
    exact hs
  case frame =>
    simp only [exec, execFrame] at h
    split_ifs at h
    exact traceFits_withFrame hs (traceFits_processFrame hs) h
  case pageAccept =>
    obtain rfl := eq_of_guarded_next h
    exact traceFits_emit (opFits_crcOkMsg _) hs
  case pageReject =>
    obtain rfl := eq_of_guarded_next h
    exact traceFits_emit (opFits_crcFailMsg _) hs
  case complete =>
    obtain rfl := eq_of_guarded_next h
    exact traceFits_emit rfl (traceFits_emit (opFits_programEndMsg _) hs)
  case cancel =>
    obtain rfl := Host.Outcome.next.inj h
    split <;> exact hs
  case reset =>
    simp only [exec, execReset] at h
    split_ifs at h
    obtain rfl := Host.Outcome.next.inj h
    exact hs

end

/-- Settles O46: fetching does not touch the trace, and what the row that runs appends has its form. -/
theorem everyStepKeepsTheMessagesInForm : Obligations.EveryStepKeepsTheMessagesInForm := by
  intro s t hs h
  obtain ⟨es, p, ⟨i, hx⟩ | rfl⟩ := step_next_exec h
  · exact exec_keeps_traceFits (s := { s with inputs := es, probe := p }) hs hx
  · exact hs

/-! ## A frame that was not loaded -/

/-- FRAME_AT has nothing to answer where a byte inside `image_len` was not loaded (R50, log 10). -/
theorem frameAt_eq_absent {s : State} {index : Nat} (hlen : 8 * index + 8 ≤ s.imageLen)
    (hslice : Memory.slice s.image (8 * index) 8 = none) : frameAt s index = .absent := by
  cases h : frameAt s index with
  | ok f =>
    obtain ⟨-, hread⟩ := frameAt_eq_ok.1 h
    simp [hslice] at hread
  | outOfRange => exact absurd (frameAt_eq_outOfRange.1 h) (by omega)
  | absent => rfl

/-- Every rule over a frame is refused where the frame was not loaded. -/
theorem withFrame_not_loaded {s : State} {index : Nat} (hlen : 8 * index + 8 ≤ s.imageLen)
    (hslice : Memory.slice s.image (8 * index) 8 = none) (k : Frame → State) :
    withFrame index s k = .refused .imageByteAbsent := by
  rw [withFrame, frameAt_eq_absent hlen hslice]

/-- Settles O16: all four rows work on a frame, FRAME_AT on its operand's and the others on the current one. -/
theorem frameNotLoadedIsRefused : Obligations.FrameNotLoadedIsRefused := by
  refine ⟨fun s index hlen hslice => withFrame_not_loaded hlen hslice _, fun s i hlen hslice hi => ?_⟩
  have hrefused : ∀ k, withFrame (curIndex s) s k = .refused .imageByteAbsent := withFrame_not_loaded hlen hslice
  rcases hi with rfl | rfl | ⟨rfl, hstate, hcancel⟩
  · exact hrefused _
  · exact hrefused _
  · simp only [exec, execFrame, hstate, hcancel, and_self, if_true, hrefused]

/-! ## A blocked state -/

/-- While a request is outstanding the block has no step of its own (R150). -/
theorem selectRule_internal_of_blocked {st : ProtoState} (hb : blocked st) (c : Bool) :
    selectRule st c .internal = none := by
  rcases hb with rfl | rfl <;> rfl

theorem selectRule_start_of_blocked {st : ProtoState} (hb : blocked st) (c : Bool) (len : Nat) :
    selectRule st c (.start len) = some (.startBusy len) := by
  rcases hb with rfl | rfl <;> rfl

theorem holdsTransport_of_blocked {st : ProtoState} (hb : blocked st) : holdsTransport st := by
  rcases hb with rfl | rfl <;> simp [holdsTransport]

/-- An event other than the block's own turn is the oldest input. -/
theorem inputs_of_nextEvent {s : State} {e : Event} (h : nextEvent s = e) (he : e ≠ .internal) :
    ∃ rest, s.inputs = e :: rest := by
  cases hin : s.inputs with
  | nil => exact absurd (by simpa [nextEvent, hin] using h.symm) he
  | cons e' rest => exact ⟨rest, by simpa [nextEvent, hin] using h⟩

/-- CANCEL keeps the state and emits nothing (R168). -/
theorem exec_cancel_next {s t : State} (h : exec .cancel s = .next t) :
    t.state = s.state ∧ t.trace = s.trace := by
  obtain rfl := Host.Outcome.next.inj h
  split <;> exact ⟨rfl, rfl⟩

/-- Settles O52, by the next event: neither the block's own turn nor a host command does more than record a CANCEL,
and a held transport refuses RESET. -/
theorem blockedStateIsLeftOnlyByAResult : Obligations.BlockedStateIsLeftOnlyByAResult := by
  intro s t hp hinv hb hstep
  rcases step_next_cases hp hstep with ⟨i, hsel, -, hx⟩ | ⟨-, rfl⟩
  · cases he : nextEvent s with
    | internal => simp [he, selectRule_internal_of_blocked hb] at hsel
    | start len =>
      obtain rfl : Instr.startBusy len = i := by simpa [he, selectRule_start_of_blocked hb] using hsel
      obtain rfl := eq_of_guarded_next hx
      exact .inl ⟨rfl, rfl⟩
    | cancel =>
      obtain rfl : Instr.cancel = i := by simpa [he, selectRule] using hsel
      exact .inl (exec_cancel_next (s := taken s) hx)
    | reset =>
      obtain rfl : Instr.reset = i := by simpa [he, selectRule] using hsel
      have hheld : (taken s).tpHeld = true :=
        tpHeld_of_holdsTransport (stateInv_taken hinv) (holdsTransport_of_blocked hb)
      simp [exec, execReset, hheld] at hx
    | rsp r =>
      obtain ⟨rest, hin⟩ := inputs_of_nextEvent he (by simp)
      exact .inr ⟨rest, .inr ⟨r, hin⟩⟩
    | tmo =>
      obtain ⟨rest, hin⟩ := inputs_of_nextEvent he (by simp)
      exact .inr ⟨rest, .inl hin⟩
  · exact .inl ⟨rfl, rfl⟩

end Sys2Proof.Machine

/-! # Proofs: the encodings, and what a step makes of a word or a response (spec/30_encoding.md) -/

namespace Sys2Proof.Machine

open Sys2Proof.Safety

/-! ## An encoded message decodes to itself -/

/-- Every listed code is the one that its byte stands for (R105). -/
@[simp] theorem codeOfByte_codeByte (c : CommandCode) : codeOfByte (codeByte c) = some c := by
  cases c <;> rfl

@[simp] theorem headerWord_code (kind : Bool) (ch : Channel) (c : CommandCode) :
    (headerWord kind ch c).extractLsb' 0 8 = codeByte c :=
  BitVec.extractLsb'_append_eq_right

@[simp] theorem headerWord_channel (kind : Bool) (ch : Channel) (c : CommandCode) :
    (headerWord kind ch c).extractLsb' 8 11 = channelId ch := by
  rw [headerWord, BitVec.extractLsb'_append_eq_of_le (by decide), BitVec.extractLsb'_append_eq_right]

theorem headerWord_kind (kind : Bool) (ch : Channel) (c : CommandCode) :
    (headerWord kind ch c).getLsbD 19 = kind := by
  rw [headerWord, BitVec.getLsbD_append, BitVec.getLsbD_append]
  exact BitVec.getLsbD_ofBool kind 0

/-- A header word on the update channel decodes by its kind and its code (R71). -/
theorem decodeWord_headerWord (kind : Bool) (c : CommandCode) (rest : List Byte) :
    decodeWord (headerWord kind .update c) rest = messageOf kind c rest := by
  have hack : channelId .update ≠ channelId .crcAck := by decide
  simp only [decodeWord, headerWord_channel, headerWord_code, headerWord_kind, codeOfByte_codeByte, hack, ne_eq,
    not_true_eq_false, if_false]

/-- A message's header word decodes to the message (R96 to R102). -/
theorem decodeWord_of_encodeHeader {i : Instr} {h : BitVec 20} (hi : encodeHeader i = some h) (rest : List Byte) :
    decodeWord h rest = .instr i rest := by
  cases i
  case msgProgramStart | msgWriteFrame | msgLastFrameMark | msgCrcChallenge | msgCrcOk | msgCrcFail | msgProgramEnd =>
    obtain rfl := Option.some.inj hi
    exact decodeWord_headerWord _ _ _
  all_goals exact absurd hi nofun

/-- Decoding puts the three bytes of a word together again (log 8). -/
theorem decodeHeader_headerBytes (h : BitVec 20) (rest : List Byte) :
    decodeHeader (headerBytes h ++ rest) = decodeWord h rest := by
  have hhigh : ((0 : BitVec 4) ++ h.extractLsb' 16 4).extractLsb' 4 4 = 0 := BitVec.extractLsb'_append_eq_left
  have hlow : ((0 : BitVec 4) ++ h.extractLsb' 16 4).extractLsb' 0 4 = h.extractLsb' 16 4 :=
    BitVec.extractLsb'_append_eq_right
  have hword : h.extractLsb' 16 4 ++ h.extractLsb' 8 8 ++ h.extractLsb' 0 8 = h := by
    rw [BitVec.extractLsb'_append_extractLsb'_eq_extractLsb' (by rfl),
      BitVec.extractLsb'_append_extractLsb'_eq_extractLsb' (by rfl)]
    exact BitVec.extractLsb'_eq_self
  simp only [headerBytes, List.cons_append, List.nil_append, decodeHeader, hhigh, hlow, hword, ne_eq,
    not_true_eq_false, if_false]

/-- Settles O2: the three bytes give the header word back, and the header word the message. -/
theorem decodingAnEncodedMessageGivesItBack : Obligations.DecodingAnEncodedMessageGivesItBack := by
  intro i bytes rest hi
  obtain ⟨h, hword, rfl⟩ := Option.map_eq_some_iff.1 hi
  rw [decodeHeader_headerBytes, decodeWord_of_encodeHeader hword]

/-- Settles O1: each word of the opcode table is laid out as the header word of its message. -/
theorem headerWordsDecodeToTheirMessages : Obligations.HeaderWordsDecodeToTheirMessages := by
  refine ⟨?_, ?_, ?_, ?_, ?_, ?_, ?_⟩ <;> decide

/-! ## The payload that CRCRSP stands for -/

/-- The digit that stands for four bits has their value (R93). -/
@[simp] theorem hexval_asciiDigit (n : BitVec 4) : hexval (asciiDigit n) = some n.toNat := by
  revert n
  decide

/-- The value of two digits is the byte of their halves (R93). -/
theorem ofNat_digits (x y : BitVec 4) : BitVec.ofNat 8 (16 * x.toNat + y.toNat) = x ++ y := by
  have hshift : 16 * x.toNat = x.toNat <<< 4 := by rw [Nat.shiftLeft_eq, Nat.mul_comm]
  rw [hshift, Nat.shiftLeft_add_eq_or_of_lt y.isLt, ← BitVec.toNat_append, BitVec.ofNat_toNat, BitVec.setWidth_eq]

/-- Two digits decode to the byte of their halves (R93). -/
theorem byteDecodeRef_asciiDigit (x y : BitVec 4) :
    byteDecodeRef (asciiDigit x) (asciiDigit y) = some (x ++ y) := by
  simp [byteDecodeRef, ofNat_digits]

/-- Settles O60: each pair of digits decodes to a byte of the value, and the two bytes make the value. -/
theorem crcRspNotationDecodesToItsValue : Obligations.CrcRspNotationDecodesToItsValue := by
  intro v
  have hhigh : v.extractLsb' 12 4 ++ v.extractLsb' 8 4 = v.extractLsb' 8 8 :=
    BitVec.extractLsb'_append_extractLsb'_eq_extractLsb' (by rfl)
  have hlow : v.extractLsb' 4 4 ++ v.extractLsb' 0 4 = v.extractLsb' 0 8 :=
    BitVec.extractLsb'_append_extractLsb'_eq_extractLsb' (by rfl)
  have hword : v.extractLsb' 8 8 ++ v.extractLsb' 0 8 = v :=
    (BitVec.extractLsb'_append_extractLsb'_eq_extractLsb' (by rfl)).trans BitVec.extractLsb'_eq_self
  simp [decodeCrcAck, crcRspPayload, byteDecode, byteDecodeRef_asciiDigit, hhigh, hlow, hword]

/-! ## What a message's row emits -/

/-- A message that carries the frame at `index` emits its operation or takes the abort entry (R195). -/
theorem withFrame_emit {index : Nat} {s t : State} {op : Frame → TransportOp} {h : Option (BitVec 20)}
    (hop : ∀ f, opHeader (op f) = h) (hx : withFrame index s (fun f => emit (op f) s) = .next t) :
    (∃ o, t = emit o s ∧ opHeader o = h) ∨ t = abortEntry .outOfRange s := by
  rcases withFrame_next hx with ⟨f, -, rfl⟩ | ⟨-, rfl⟩
  · exact .inl ⟨op f, rfl, hop f⟩
  · exact .inr rfl

/-- Settles O4: five messages emit their operation in every state, the other two where their frame is in the image. -/
theorem emittedOperationHasTheHeaderOfItsMessage : Obligations.EmittedOperationHasTheHeaderOfItsMessage := by
  intro i s t hi hx
  cases i
  case msgProgramStart | msgLastFrameMark | msgCrcOk | msgCrcFail | msgProgramEnd =>
    obtain rfl := Host.Outcome.next.inj hx
    exact .inl ⟨_, rfl, rfl⟩
  case msgWriteFrame | msgCrcChallenge => exact withFrame_emit (fun _ => rfl) hx
  all_goals exact absurd rfl hi

/-- Settles O13: the five rows emit their operation in every state; only the markers' lengths are open (R86). -/
theorem markerMessagesCarryTheirRepeatedByte : Obligations.MarkerMessagesCarryTheirRepeatedByte :=
  fun _ => ⟨rfl, rfl, rfl, rfl, rfl⟩

/-- Settles O14: FRAME_AT answers the current frame, and the two messages carry what it answers. -/
theorem frameMessagesCarryTheCurrentFrame : Obligations.FrameMessagesCarryTheCurrentFrame := by
  intro s f hthere
  have hread : frameAt s (curIndex s) = .ok f := frameAt_eq_ok.2 hthere
  exact ⟨withFrame_ok hread, withFrame_ok hread⟩

/-! ## Responses -/

/-- Settles O6: in `Erasing` both rows are `acceptStartStatus`, in `AwaitingPageCrc` both are `acceptCrcAck`. -/
theorem responseRowsActAsTheRulesThatAcceptThem : Obligations.ResponseRowsActAsTheRulesThatAcceptThem := by
  intro s r
  refine ⟨by cases s.state <;> simp [selectResponse, blocked], fun i hi => ?_⟩
  cases hs : s.state <;> simp only [selectResponse, hs, Option.some.injEq, reduceCtorEq] at hi
  case erasing =>
    subst hi
    refine ⟨.eraseResp r, acceptStartStatus r s, rfl, if_pos hs, if_pos hs, fun _ => ⟨rfl, ?_⟩, nofun⟩
    rcases acceptStartStatus_cases r s with ⟨rfl, h⟩ | ⟨b, more, rfl, rfl, h⟩ | ⟨b, more, rfl, hb, h⟩ <;> rw [h]
    · rfl
    · rfl
    · simp only [hb, if_false]
      rfl
  case awaitingPageCrc =>
    subst hi
    refine ⟨.crcResp r, acceptCrcAck r s, rfl, if_pos hs, if_pos hs, nofun, fun _ => ⟨rfl, ?_⟩⟩
    rcases acceptCrcAck_cases r s with ⟨hd, h⟩ | ⟨hd, h⟩ | ⟨v, hd, hv, h⟩ <;> rw [h, hd]
    · rfl
    · simp only [if_true]
    · simp only [hv, if_false]

/-! ## Refused events -/

theorem step_of_fetch_refuse {s : State} {r : Refusal} (h : fetch s = .refuse r) : step s = .refused r := by
  simp [step, h]

theorem accept_of_not_wellFormed {i : Instr} {s : State} (h : wellFormed s.params i = false) :
    accept i s = .refuse .illFormed := by
  simp [accept, h]

theorem selectResult_of_not_blocked {st : ProtoState} (hb : ¬ blocked st) (forStart forCrc : Instr) :
    selectResult st forStart forCrc = none := by
  cases st
  case erasing => exact absurd (.inl rfl) hb
  case awaitingPageCrc => exact absurd (.inr rfl) hb
  all_goals rfl

theorem deliver_of_no_rule {s : State} {e : Event} (hsel : selectRule s.state s.cancelReq e = none)
    (he : e ≠ .internal) : deliver e s = .refuse .noRequestOutstanding := by
  simp [deliver, hsel, he]

/-- A step refuses an event whose rule's operand cannot be constructed (log 14). -/
theorem step_of_illFormed {s : State} {e : Event} {rest : List Event} {i : Instr} (hp : s.probe = none)
    (hin : s.inputs = e :: rest) (hsel : selectRule s.state s.cancelReq e = some i)
    (hw : wellFormed s.params i = false) : step s = .refused .illFormed := by
  have hdeliver := deliver_of_selectRule (s := { s with inputs := rest }) hsel
  apply step_of_fetch_refuse
  rw [fetch_of_input hp hin, hdeliver]
  exact accept_of_not_wellFormed hw

/-- Settles O10: no rule is selected for the event, and each of the six rows tests its one state. -/
theorem resultWithoutARequestIsRefused : Obligations.ResultWithoutARequestIsRefused := by
  refine ⟨fun s e rest hp hin he hb => ?_, fun s r i hi hs => ?_, fun s r i hi hs => ?_⟩
  · have hsel : selectRule s.state s.cancelReq e = none ∧ e ≠ .internal := by
      rcases he with rfl | ⟨r, rfl⟩
      · exact ⟨selectResult_of_not_blocked hb _ _, nofun⟩
      · exact ⟨selectResult_of_not_blocked hb _ _, nofun⟩
    apply step_of_fetch_refuse
    rw [fetch_of_input hp hin]
    exact deliver_of_no_rule hsel.1 hsel.2
  · rcases hi with rfl | rfl | rfl <;> exact if_neg hs
  · rcases hi with rfl | rfl | rfl <;> exact if_neg hs

/-- Settles O12: a blocked state selects a rule with the payload as its operand, START and START.BUSY have the
length. -/
theorem illFormedEventIsRefused : Obligations.IllFormedEventIsRefused := by
  refine ⟨fun s r rest hp hin hr hb => ?_, fun s len rest hp hin hlen => ?_⟩
  · have hfits : fitsPayload r = false := by simpa [fitsPayload] using hr
    rcases hb with hs | hs
    · exact step_of_illFormed (i := .eraseResp r) hp hin (by rw [hs]; rfl) hfits
    · exact step_of_illFormed (i := .crcResp r) hp hin (by rw [hs]; rfl) hfits
  · have hfits : fitsAddr s.params len = false := by simpa [fitsAddr] using hlen
    refine step_of_illFormed hp hin rfl ?_
    split <;> exact hfits

/-! ## A row run by itself -/

/-- A step runs the instruction that a probe holds, if it is one of this hardware's (log 7). -/
theorem step_of_probe {s : State} {p : Probe} {i : Instr} (hp : s.probe = some p)
    (hfetch : fetchProbe p s = accept i { s with probe := none }) (hw : wellFormed s.params i = true) :
    step s = exec i { s with probe := none } := by
  apply step_of_fetch_run
  rw [fetch_of_probe hp, hfetch]
  exact accept_eq_run.2 ⟨hw, rfl, rfl⟩

theorem fetchProbe_word {s : State} {bytes rest : List Byte} {i : Instr} (hd : decodeHeader bytes = .instr i rest) :
    fetchProbe (.word bytes) s = accept i { s with probe := none } := by
  simp [fetchProbe, hd]

/-- A word of the opcode table is read from its bytes. -/
theorem decodeHeader_of_decodeTableWord {nbits w : Nat} {i : Instr} (h : decodeTableWord nbits w = some i) :
    ∃ rest, decodeHeader (tableBytes nbits w) = .instr i rest := by
  unfold decodeTableWord at h
  cases hd : decodeHeader (tableBytes nbits w) with
  | instr j rest =>
    rw [hd] at h
    exact ⟨rest, by rw [Option.some.inj h]⟩
  | rejected e => simp [hd] at h

/-- Settles O8: the probe's bytes, or the operation in it, are what fetching hands to the step. -/
theorem stepRunsTheDecodedRow : Obligations.StepRunsTheDecodedRow := by
  refine ⟨fun s bytes rest i hp hd hw => ?_, fun s i hp hw => ?_, fun s nbits w i hd hw => ?_⟩
  · exact step_of_probe hp (fetchProbe_word hd) hw
  · exact step_of_probe hp rfl hw
  · obtain ⟨rest, hbytes⟩ := decodeHeader_of_decodeTableWord hd
    exact step_of_probe (s := s.withFetchWord nbits w) rfl (fetchProbe_word hbytes) hw

end Sys2Proof.Machine

/-! # Proofs: a transfer can complete (spec/42_state_machine.md R165, R205) -/

namespace Sys2Proof.Machine

open Sys2Proof.Safety

/-! ## Steps that the block and the device take without the host -/

/-- What runs without a host command: the block's own turn or a response of the device. -/
def withoutHost (e : Event) : Prop := e = .internal ∨ ∃ r, e = .rsp r

/-- What a transfer under way keeps: `image_len`, the parameters, and no `Connect` among the operations appended. -/
structure SameTransfer (s t : State) : Prop where
  imageLen : t.imageLen = s.imageLen
  params : t.params = s.params
  appended : ∃ ops, t.trace = s.trace ++ ops ∧ .connect ∉ ops

theorem SameTransfer.refl (s : State) : SameTransfer s s := ⟨rfl, rfl, [], by simp, by simp⟩

theorem SameTransfer.trans {s t u : State} (hst : SameTransfer s t) (htu : SameTransfer t u) : SameTransfer s u := by
  obtain ⟨ops, htrace, hops⟩ := hst.appended
  obtain ⟨more, htrace', hmore⟩ := htu.appended
  exact ⟨htu.imageLen.trans hst.imageLen, htu.params.trans hst.params, ops ++ more, by simp [htrace', htrace],
    by simp [hops, hmore]⟩

/-- One step of the transfer under way, on an event without the host and whatever is still to come. -/
def proceeds (s t : State) : Prop :=
  SameTransfer s t ∧
    ∃ e, withoutHost e ∧ ∀ rest, step { s with inputs := e :: rest } = .next { t with inputs := rest }

/-- A run begins with its first step. -/
theorem run_succ_of_step {s t : State} (h : step s = .next t) (n : Nat) :
    Host.Core.run Sys2Proof.core (n + 1) s = Host.Core.run Sys2Proof.core n t := by
  have hcore : Sys2Proof.core.step s = .next t := h
  simp only [Host.Core.run, hcore]

/-- Steps of the transfer under way are a run on some schedule without the host. -/
theorem exists_run_of_proceeds {s t : State} (h : Relation.ReflTransGen proceeds s t) :
    SameTransfer s t ∧ ∃ (answers : List Event) (n : Nat), (∀ e ∈ answers, withoutHost e) ∧
      Host.Core.run Sys2Proof.core n { s with inputs := answers } = .next { t with inputs := [] } := by
  induction h using Relation.ReflTransGen.head_induction_on with
  | refl => exact ⟨.refl t, [], 0, by simp, rfl⟩
  | head hstep _ ih =>
    obtain ⟨hsame, e, he, hnext⟩ := hstep
    obtain ⟨hsame', answers, n, hanswers, hrun⟩ := ih
    refine ⟨hsame.trans hsame', e :: answers, n + 1, List.forall_mem_cons.2 ⟨he, hanswers⟩, ?_⟩
    rw [run_succ_of_step (hnext answers), hrun]

/-- A rule selected for an event without the host is a step of the transfer under way. -/
theorem proceeds_of_exec {s t : State} {e : Event} {i : Instr} (hp : s.probe = none) (he : withoutHost e)
    (hsel : selectRule s.state s.cancelReq e = some i) (hw : wellFormed s.params i = true) (hsame : SameTransfer s t)
    (hx : ∀ rest, exec i { s with inputs := rest } = .next { t with inputs := rest }) : proceeds s t :=
  ⟨hsame, e, he, fun rest =>
    (stepRunsTheSelectedRule.1 { s with inputs := e :: rest } e rest i hp rfl hsel hw).trans (hx rest)⟩

/-! ## A frame of a loaded image -/

/-- A slice splits at any point. -/
theorem Memory.slice_split {m : Memory} {a k n : Nat} {bs : List Byte} (h : Memory.slice m a (k + n) = some bs) :
    ∃ xs ys, Memory.slice m a k = some xs ∧ Memory.slice m (a + k) n = some ys := by
  induction k generalizing a bs with
  | zero => exact ⟨[], bs, by simp, by simpa using h⟩
  | succ k ih =>
    rw [show k + 1 + n = k + n + 1 by omega] at h
    obtain ⟨b, t, hb, ht, -⟩ := Memory.slice_succ.1 h
    obtain ⟨xs, ys, hx, hy⟩ := ih ht
    exact ⟨b :: xs, ys, Memory.slice_succ.2 ⟨b, xs, hb, hx, rfl⟩, by rwa [show a + (k + 1) = a + 1 + k by omega]⟩

/-- Eight bytes are those of a frame (R5). -/
theorem exists_frameBytes {bs : List Byte} (h : bs.length = 8) : ∃ f, frameBytes f = bs := by
  match bs, h with
  | [b0, b1, b2, b3, b4, b5, b6, b7], _ => exact ⟨⟨b0, b1, b2, b3, b4, b5, b6, b7⟩, rfl⟩

/-- The host has loaded the whole image (R224 item 3). -/
def imageLoaded (s : State) : Prop := ∃ bs, Memory.slice s.image 0 s.imageLen = some bs

/-- FRAME_AT answers every frame of a loaded image (R135). -/
theorem exists_frameAt {s : State} {index : Nat} (hload : imageLoaded s) (h : index < totalFrames s.imageLen) :
    ∃ f, frameAt s index = .ok f := by
  obtain ⟨bs, hbs⟩ := hload
  unfold totalFrames at h
  have hlen : 8 * index + 8 ≤ s.imageLen := by omega
  rw [show s.imageLen = 8 * index + (8 + (s.imageLen - (8 * index + 8))) by omega] at hbs
  obtain ⟨_, _, -, htail⟩ := Memory.slice_split hbs
  obtain ⟨ys, _, hframe, -⟩ := Memory.slice_split htail
  obtain ⟨f, rfl⟩ := exists_frameBytes (Memory.slice_length hframe)
  exact ⟨f, frameAt_eq_ok.2 ⟨hlen, by simpa using hframe⟩⟩

/-! ## The rules of a transfer that meets no fault -/

/-- What PAGE_ACCEPT leaves (R162). -/
def pageTaken (s : State) : State :=
  { restartPage (emit (crcOkMsg s.params) s) with
    committedFrameIndex := committedAfter s
    state := if allConsumed (committedAfter s) s.imageLen then .completing else .transferring }

/-- What COMPLETE leaves (R166). -/
def finished (s : State) : State :=
  { emit .close (emit (programEndMsg s.params) s) with tpHeld := false, state := .done }

/-- FRAME reads no input. -/
theorem processFrame_inputs (s : State) (rest : List Event) (f : Frame) :
    processFrame { s with inputs := rest } f = { processFrame s f with inputs := rest } := by
  have hclass : classify { s with inputs := rest } = classify s := rfl
  unfold processFrame
  rw [hclass]
  cases classify s <;> rfl

/-- FRAME begins no transfer: it emits the frame, or its challenge with the marker that may precede it (R155). -/
theorem sameTransfer_processFrame (s : State) (f : Frame) : SameTransfer s (processFrame s f) := by
  rcases processFrame_cases s f with ⟨-, h⟩ | ⟨marker, -, h⟩ <;> rw [h]
  · exact ⟨rfl, rfl, [writeFrameMsg f], rfl, by simp [writeFrameMsg]⟩
  · cases marker with
    | false => exact ⟨rfl, rfl, [crcChallengeMsg s.params f], by simp, by simp [crcChallengeMsg]⟩
    | true =>
      exact ⟨rfl, rfl, [lastFrameMarkMsg, crcChallengeMsg s.params f], by simp,
        by simp [lastFrameMarkMsg, crcChallengeMsg]⟩

section
variable {s : State} (hp : s.probe = none)
include hp

theorem proceeds_frame {f : Frame} (hs : s.state = .transferring) (hc : s.cancelReq = false)
    (hf : frameAt s (curIndex s) = .ok f) : proceeds s (processFrame s f) := by
  refine proceeds_of_exec (i := .frame) hp (.inl rfl) (by simp [selectRule, selectInternal, hs, hc]) rfl
    (sameTransfer_processFrame s f) fun rest => ?_
  have hread : frameAt { s with inputs := rest } (curIndex s) = .ok f := hf
  exact (if_pos ⟨hs, hc⟩).trans ((withFrame_ok hread).trans (congrArg _ (processFrame_inputs s rest f)))

/-- A response that decodes to the accumulator is accepted (R160). -/
theorem proceeds_crcResp {r : List Byte} (hs : s.state = .awaitingPageCrc) (hr : r.length ≤ 8)
    (hd : decodeCrcAck s.params.byteDecode r = some s.crcAccumulator) :
    proceeds s { s with state := .pageAccepted } := by
  refine proceeds_of_exec (i := .crcResp r) hp (.inr ⟨r, rfl⟩) (by rw [hs]; rfl)
    (by simpa [wellFormed, fitsPayload] using hr) ⟨rfl, rfl, [], by simp, by simp⟩ fun rest => ?_
  have haccept : acceptCrcAck r { s with inputs := rest } = { s with inputs := rest, state := .pageAccepted } := by
    simp [acceptCrcAck, hd, crcMatch]
  exact (if_pos hs).trans (congrArg _ haccept)

theorem proceeds_pageAccept (hs : s.state = .pageAccepted) : proceeds s (pageTaken s) :=
  proceeds_of_exec (i := .pageAccept) hp (.inl rfl) (by rw [hs]; rfl) rfl
    ⟨rfl, rfl, [crcOkMsg s.params], rfl, by simp [crcOkMsg]⟩ fun _ => if_pos hs

theorem proceeds_complete (hs : s.state = .completing) : proceeds s (finished s) :=
  proceeds_of_exec (i := .complete) hp (.inl rfl) (by rw [hs]; rfl) rfl
    ⟨rfl, rfl, [programEndMsg s.params, .close], by simp [finished], by simp [programEndMsg]⟩ fun _ => if_pos hs

end

/-! ## One frame after the other -/

/-- About to process a frame of a loaded image, with no cancellation recorded (R155). -/
structure ReadyForFrame (s : State) : Prop where
  probe : s.probe = none
  state : s.state = .transferring
  cancelReq : s.cancelReq = false
  loaded : imageLoaded s
  inside : curIndex s < totalFrames s.imageLen

/-- The run is over with every frame committed. -/
def allCommitted (s : State) : Prop := s.state = .done ∧ s.committedFrameIndex = totalFrames s.imageLen

/-- `BYTE_DECODE` can express every CRC (the premise that R92 asks to be named). -/
def expressesEveryCrc (d : ByteDecode) : Prop := ∀ v : Crc, ∃ r : List Byte, r.length ≤ 8 ∧ decodeCrcAck d r = some v

/-- Steps lead to the end of the transfer or to the frame after the current one. -/
def advances (s : State) : Prop :=
  ∃ t, Relation.ReflTransGen proceeds s t ∧ (allCommitted t ∨ (ReadyForFrame t ∧ curIndex t = curIndex s + 1))

/-- A page that is accepted is the last, and the transfer completes, or the next one begins after it (R162, R166). -/
theorem advances_of_pageAccepted {s : State} (hp : s.probe = none) (hs : s.state = .pageAccepted)
    (hc : s.cancelReq = false) (hload : imageLoaded s) (hin : curIndex s < totalFrames s.imageLen) : advances s := by
  have htaken := proceeds_pageAccept hp hs
  by_cases hall : committedAfter s = totalFrames s.imageLen
  · have hstate : (pageTaken s).state = .completing := by simp [pageTaken, allConsumed, hall]
    exact ⟨finished (pageTaken s), .tail (.single htaken) (proceeds_complete hp hstate), .inl ⟨rfl, hall⟩⟩
  · have hstate : (pageTaken s).state = .transferring := by simp [pageTaken, allConsumed, hall]
    have hnext : curIndex (pageTaken s) = curIndex s + 1 := rfl
    have hinside : curIndex (pageTaken s) < totalFrames s.imageLen := lt_of_le_of_ne hin hall
    exact ⟨pageTaken s, .single htaken, .inr ⟨⟨hp, hstate, hc, hload, hinside⟩, hnext⟩⟩

/-- A challenge can be answered with the accumulator (R160). -/
theorem advances_of_awaitingPageCrc {s : State} (hp : s.probe = none) (hs : s.state = .awaitingPageCrc)
    (hc : s.cancelReq = false) (hload : imageLoaded s) (hin : curIndex s < totalFrames s.imageLen)
    (hdecode : expressesEveryCrc s.params.byteDecode) : advances s := by
  obtain ⟨r, hr, hd⟩ := hdecode s.crcAccumulator
  obtain ⟨t, hsteps, ht⟩ := advances_of_pageAccepted (s := { s with state := .pageAccepted }) hp rfl hc hload hin
  exact ⟨t, .head (proceeds_crcResp hp hs hr hd) hsteps, ht⟩

/-- The current frame is sent, or sent as a challenge that the device answers (R155). -/
theorem advances_of_readyForFrame {s : State} (h : ReadyForFrame s) (hdecode : expressesEveryCrc s.params.byteDecode) :
    advances s := by
  obtain ⟨f, hf⟩ := exists_frameAt h.loaded h.inside
  have hframe := proceeds_frame h.probe h.state h.cancelReq hf
  rcases processFrame_cases s f with ⟨hclass, he⟩ | ⟨marker, -, he⟩ <;> rw [he] at hframe
  · obtain ⟨hlast, hboundary⟩ := classify_eq_midPage.1 hclass
    have hnext : curIndex (sendFrame f { s with crcAccumulator := crcFold8 s.crcAccumulator f }) = curIndex s + 1 :=
      congrArg (s.committedFrameIndex + ·) (nextFrameInPage_val hboundary)
    have hinside := hnext.trans_lt (lt_of_le_of_ne h.inside hlast)
    exact ⟨_, .single hframe, .inr ⟨⟨h.probe, h.state, h.cancelReq, h.loaded, hinside⟩, hnext⟩⟩
  · obtain ⟨t, hsteps, ht⟩ := advances_of_awaitingPageCrc
      (s := sendChallenge marker f { s with crcAccumulator := crcFold8 s.crcAccumulator f })
      h.probe rfl h.cancelReq h.loaded h.inside hdecode
    exact ⟨t, .head hframe hsteps, ht⟩

/-- By induction on the frames from the current one to the end of the image. -/
theorem completes_of_readyForFrame {s : State} (h : ReadyForFrame s) (hdecode : expressesEveryCrc s.params.byteDecode) :
    ∃ t, Relation.ReflTransGen proceeds s t ∧ allCommitted t := by
  induction hleft : totalFrames s.imageLen - curIndex s generalizing s with
  | zero => exact absurd h.inside (by omega)
  | succ left ih =>
    obtain ⟨t, hsteps, hdone | ⟨hready, hnext⟩⟩ := advances_of_readyForFrame h hdecode
    · exact ⟨t, hsteps, hdone⟩
    · obtain ⟨hsame, -⟩ := exists_run_of_proceeds hsteps
      have hleft' : totalFrames t.imageLen - curIndex t = left := by
        rw [hsame.imageLen, hnext]
        omega
      obtain ⟨u, hmore, hdone⟩ := ih hready (by rwa [hsame.params]) hleft'
      exact ⟨u, hsteps.trans hmore, hdone⟩

/-- Settles O58: one frame after the other, each challenge answered with the accumulator. -/
theorem everyTransferCanStillComplete : Obligations.EveryTransferCanStillComplete := by
  intro s hp hinv hs hc hload hdecode
  obtain ⟨-, hinside⟩ := hinv.inImage (.inl hs)
  obtain ⟨t, hsteps, hdone, hall⟩ := completes_of_readyForFrame ⟨hp, hs, hc, hload, hinside⟩ hdecode
  obtain ⟨hsame, answers, n, hanswers, hrun⟩ := exists_run_of_proceeds hsteps
  obtain ⟨ops, htrace, hops⟩ := hsame.appended
  rw [hsame.imageLen] at hall
  refine ⟨answers, n, { t with inputs := [] }, ops, hanswers, hrun, hdone, hsame.imageLen, hall, htrace, hops, ?_⟩
  rintro ⟨hlen, -⟩
  have hidx := totalFrames_lt_two_pow_idxW hlen
  simp only [registersFit, hsame.imageLen, hsame.params, hall]
  exact ⟨hlen, hidx⟩

end Sys2Proof.Machine

/-! # Proofs: the CRC engine (spec/40_crc_engine.md) -/

namespace Sys2Proof.Machine

open Sys2Proof.Safety

/-! ## What the engine's rows answer -/

theorem exec_crcBitstep (acc : Crc) (s : State) :
    exec (.crcBitstep acc) s = .next { s with opResult := .crc (crcBitstep acc) } := rfl

theorem exec_crcUpdate (acc : Crc) (byte : Byte) (s : State) :
    exec (.crcUpdate acc byte) s = .next { s with opResult := .crc (crcUpdate acc byte) } := rfl

theorem exec_crcFold8 (acc : Crc) (f : Frame) (s : State) :
    exec (.crcFold8 acc f) s = .next { s with opResult := .crc (crcFold8 acc f) } := rfl

theorem exec_crcSeq (acc : Crc) (bytes : List Byte) (s : State) :
    exec (.crcSeq acc bytes) s = .next { s with opResult := .crc (crcSeq acc bytes) } := rfl

/-- CRC.SEQ answers a value exactly when the fold gives it. -/
theorem exec_crcSeq_answers_iff {acc v : Crc} {bytes : List Byte} {s : State} :
    exec (.crcSeq acc bytes) s = .next { s with opResult := .crc v } ↔ crcSeq acc bytes = v := by
  refine ⟨fun h => ?_, fun h => h ▸ exec_crcSeq acc bytes s⟩
  have hresult := congrArg State.opResult (Host.Outcome.next.inj ((exec_crcSeq acc bytes s).symm.trans h))
  exact OpResult.crc.inj hresult

/-! ## CRC.SEQ is a left fold -/

theorem crcSeq_append (acc : Crc) (xs ys : List Byte) : crcSeq acc (xs ++ ys) = crcSeq (crcSeq acc xs) ys :=
  List.foldl_append

theorem crcSeq_concat (acc : Crc) (bytes : List Byte) (b : Byte) :
    crcSeq acc (bytes ++ [b]) = crcUpdate (crcSeq acc bytes) b :=
  List.foldl_concat ..

/-- Settles O18: a fold over two lists is the fold over the second, begun at the value of the fold over the first. -/
theorem crcResumesAfterAnyByte : Obligations.CrcResumesAfterAnyByte := by
  intro acc v w xs ys s hxs hys
  rw [exec_crcSeq_answers_iff] at hxs hys ⊢
  rw [crcSeq_append, hxs, hys]

/-! ## The bit step -/

theorem crcBitstep_of_bit15_set {a : Crc} (h : a.getLsbD 15 = true) : crcBitstep a = (a <<< 1) ^^^ 0x1021#16 :=
  if_pos h

theorem crcBitstep_of_bit15_clear {a : Crc} (h : a.getLsbD 15 = false) : crcBitstep a = a <<< 1 :=
  if_neg (by rw [h]; decide)

/-- What the bit shifted out feeds back: the polynomial, or nothing (R111). -/
def crcFeedback (top : Bool) : Crc := if top then 0x1021#16 else 0#16

theorem crcFeedback_xor (x y : Bool) : crcFeedback (x ^^ y) = crcFeedback x ^^^ crcFeedback y := by
  revert x y
  decide

/-- The polynomial has bit 0 set (R116). -/
theorem getLsbD_zero_crcFeedback (top : Bool) : (crcFeedback top).getLsbD 0 = top := by
  revert top
  decide

/-- The bit step without its case distinction. -/
theorem crcBitstep_eq_xor_feedback (a : Crc) : crcBitstep a = (a <<< 1) ^^^ crcFeedback (a.getLsbD 15) := by
  cases h : a.getLsbD 15 with
  | false => rw [crcBitstep_of_bit15_clear h, crcFeedback, if_neg (by decide), BitVec.xor_zero]
  | true => rw [crcBitstep_of_bit15_set h, crcFeedback, if_pos rfl]

/-- The bit step is linear, since the shift and the feedback are (R116). -/
theorem crcBitstep_xor (a b : Crc) : crcBitstep (a ^^^ b) = crcBitstep a ^^^ crcBitstep b := by
  simp only [crcBitstep_eq_xor_feedback, BitVec.getLsbD_xor, crcFeedback_xor, BitVec.shiftLeft_xor_distrib]
  ac_rfl

/-- Bit 0 of the result tells whether 0x1021 was applied, since the shift leaves it clear (R116). -/
theorem getLsbD_zero_crcBitstep (a : Crc) : (crcBitstep a).getLsbD 0 = a.getLsbD 15 := by
  rw [crcBitstep_eq_xor_feedback, BitVec.getLsbD_xor, getLsbD_zero_crcFeedback]
  simp

/-- A shift by one loses nothing but bit 15. -/
theorem eq_of_shiftLeft_one_eq {a b : Crc} (hshift : a <<< 1 = b <<< 1) (htop : a.getLsbD 15 = b.getLsbD 15) :
    a = b := by
  refine BitVec.eq_of_getLsbD_eq fun i hi => ?_
  obtain rfl | hi' : i = 15 ∨ i + 1 < 16 := by omega
  · exact htop
  · simpa [-BitVec.getLsbD_eq_getElem, hi'] using congrArg (BitVec.getLsbD · (i + 1)) hshift

theorem crcBitstep_injective : Function.Injective crcBitstep := by
  intro a b h
  have htop : a.getLsbD 15 = b.getLsbD 15 := by
    rw [← getLsbD_zero_crcBitstep, h, getLsbD_zero_crcBitstep]
  rw [crcBitstep_eq_xor_feedback, crcBitstep_eq_xor_feedback, htop] at h
  exact eq_of_shiftLeft_one_eq ((BitVec.xor_left_inj _).1 h) htop

/-! ## Eight bit steps -/

theorem crcBitsteps_eq_iterate (n : Nat) (a : Crc) : crcBitsteps n a = crcBitstep^[n] a := by
  induction n generalizing a with
  | zero => rfl
  | succ n ih => exact ih (crcBitstep a)

theorem crcUpdate_eq_iterate (acc : Crc) (byte : Byte) :
    crcUpdate acc byte = crcBitstep^[8] (acc ^^^ (byte.setWidth 16 <<< 8)) :=
  crcBitsteps_eq_iterate 8 _

/-- While no bit reaches the top, the bit steps only shift. -/
theorem iterate_crcBitstep_of_clear {n : Nat} {a : Crc} (h : ∀ i < n, a.getLsbD (15 - i) = false) (hn : n ≤ 16) :
    crcBitstep^[n] a = a <<< n := by
  induction n with
  | zero => simp
  | succ n ih =>
    have htop : (a <<< n).getLsbD 15 = false := by
      simp [-BitVec.getLsbD_eq_getElem, h n (by omega)]
    rw [Function.iterate_succ_apply', ih (fun i hi => h i (by omega)) (by omega), crcBitstep_of_bit15_clear htop,
      BitVec.shiftLeft_add]

/-- Settles O17: each row answers its function, and the function is the algorithm of its rule. -/
theorem crcOperationsFollowTheirAlgorithms : Obligations.CrcOperationsFollowTheirAlgorithms := by
  refine fun s => ⟨fun acc h => ?_, fun acc h => ?_, fun acc byte => ?_, fun acc f => exec_crcFold8 acc f s,
    fun acc => exec_crcSeq acc [] s, fun acc bytes b => ?_, rfl⟩
  · rw [exec_crcBitstep, crcBitstep_of_bit15_set h]
  · rw [exec_crcBitstep, crcBitstep_of_bit15_clear h]
  · rw [exec_crcUpdate, crcUpdate_eq_iterate]
  · rw [exec_crcSeq, crcSeq_concat]

/-! ## The identities of CRC.UPDATE -/

/-- A byte in bits 15:8 of the accumulator counts as part of the byte handed in (R116). -/
theorem crcUpdate_xor_shifted (acc : Crc) (x byte : Byte) :
    crcUpdate (acc ^^^ (x.setWidth 16 <<< 8)) byte = crcUpdate acc (x ^^^ byte) := by
  simp only [crcUpdate, BitVec.setWidth_xor, BitVec.shiftLeft_xor_distrib, BitVec.xor_assoc]

/-- CRC.UPDATE is linear, since each of its steps is (R116). -/
theorem crcUpdate_xor (a b : Crc) (x y : Byte) : crcUpdate (a ^^^ b) (x ^^^ y) = crcUpdate a x ^^^ crcUpdate b y := by
  have hsteps : Function.Semiconj₂ crcBitstep^[8] (· ^^^ ·) (· ^^^ ·) :=
    Function.Semiconj₂.iterate crcBitstep_xor 8
  simp only [crcUpdate_eq_iterate, ← hsteps.eq, BitVec.setWidth_xor, BitVec.shiftLeft_xor_distrib]
  congr 1
  ac_rfl

/-- The accumulator is its low byte and its high byte put into bits 15:8. -/
theorem crc_eq_low_xor_high (acc : Crc) :
    acc = (acc.extractLsb' 0 8).setWidth 16 ^^^ ((acc.extractLsb' 8 8).setWidth 16 <<< 8) := by
  refine BitVec.eq_of_getLsbD_eq fun i hi => ?_
  by_cases hlow : i < 8
  · simp [hi, hlow]
  · simp [hi, hlow, show i - 8 < 8 by omega, show 8 + (i - 8) = i by omega]

/-- With nothing in bits 15:8, the eight steps shift the low byte there. -/
theorem crcUpdate_low_zero (low : Byte) : crcUpdate (low.setWidth 16) 0#8 = low.setWidth 16 <<< 8 := by
  have hclear : ∀ i < 8, (low.setWidth 16).getLsbD (15 - i) = false := fun i hi => by
    simp [BitVec.getLsbD_of_ge low (15 - i) (by omega)]
  rw [crcUpdate_eq_iterate, show (0#8).setWidth 16 <<< 8 = 0#16 by decide, BitVec.xor_zero,
    iterate_crcBitstep_of_clear hclear (by decide)]

theorem low_shiftLeft_eight (acc : Crc) : (acc.extractLsb' 0 8).setWidth 16 <<< 8 = acc <<< 8 := by
  refine BitVec.eq_of_getLsbD_eq fun i hi => ?_
  simp [show i - 8 < 8 by omega, show i - 8 < 16 by omega]

/-- The table form (R116): the low byte is shifted, the high byte and the byte handed in select the entry. -/
theorem crcUpdate_eq_table (acc : Crc) (byte : Byte) :
    crcUpdate acc byte = (acc <<< 8) ^^^ crcUpdate 0#16 (acc.extractLsb' 8 8 ^^^ byte) := by
  let low : Crc := (acc.extractLsb' 0 8).setWidth 16
  calc crcUpdate acc byte
    _ = crcUpdate (low ^^^ ((acc.extractLsb' 8 8).setWidth 16 <<< 8)) byte := by rw [← crc_eq_low_xor_high]
    _ = crcUpdate (low ^^^ 0#16) (0#8 ^^^ (acc.extractLsb' 8 8 ^^^ byte)) := by
      rw [crcUpdate_xor_shifted, BitVec.xor_zero, BitVec.zero_xor]
    _ = (acc <<< 8) ^^^ crcUpdate 0#16 (acc.extractLsb' 8 8 ^^^ byte) := by
      rw [crcUpdate_xor, crcUpdate_low_zero, low_shiftLeft_eight]

theorem crcUpdate_injective (byte : Byte) : Function.Injective fun acc => crcUpdate acc byte := by
  intro a b h
  simp only [crcUpdate_eq_iterate] at h
  exact (BitVec.xor_left_inj _).1 (crcBitstep_injective.iterate 8 h)

/-- Settles O20: from the linearity of the bit step, and from its being injective on finitely many values. -/
theorem crcUpdateMeetsItsIdentities : Obligations.CrcUpdateMeetsItsIdentities := by
  refine ⟨fun acc byte => ?_, crcUpdate_xor, crcUpdate_eq_table, by decide, fun byte => ?_⟩
  · rw [crcUpdate_xor_shifted, BitVec.xor_zero]
  · have : Finite Crc := .of_injective BitVec.toFin BitVec.toFin_injective
    exact Finite.injective_iff_bijective.1 (crcUpdate_injective byte)

/-! ## Masking once -/

/-- The low 16 bits of an unmasked step are the bit step of the low 16 bits (R112). -/
theorem ofNat_bitstepUnmasked (n : Nat) : BitVec.ofNat 16 (bitstepUnmasked n) = crcBitstep (BitVec.ofNat 16 n) := by
  have htop : (BitVec.ofNat 16 n).getLsbD 15 = n.testBit 15 := BitVec.getLsbD_ofNat 16 n 15
  have hshift : BitVec.ofNat 16 (2 * n) = BitVec.ofNat 16 n <<< 1 := by
    rw [BitVec.ofNat_mul, BitVec.mul_comm]
    exact BitVec.mul_twoPow_eq_shiftLeft _ 1
  cases h : n.testBit 15 with
  | false => rw [crcBitstep_of_bit15_clear (htop.trans h), ← hshift, bitstepUnmasked, if_neg (by simp [h])]
  | true => rw [crcBitstep_of_bit15_set (htop.trans h), ← hshift, bitstepUnmasked, if_pos h, BitVec.ofNat_xor]

/-- Both computations start from the same 16 bits. -/
theorem ofNat_xor_mul_256 (acc : Crc) (byte : Byte) :
    BitVec.ofNat 16 (acc.toNat ^^^ (byte.toNat * 256)) = acc ^^^ (byte.setWidth 16 <<< 8) := by
  rw [BitVec.ofNat_xor, BitVec.ofNat_toNat, BitVec.setWidth_eq, BitVec.ofNat_mul, BitVec.ofNat_toNat]
  exact congrArg (acc ^^^ ·) (BitVec.mul_twoPow_eq_shiftLeft _ 8)

/-- Settles O19: reducing to 16 bits commutes with every step, so it may wait until after the eighth. -/
theorem maskingOnceEqualsMaskingEveryShift : Obligations.MaskingOnceEqualsMaskingEveryShift := by
  intro acc byte
  have hsteps : Function.Semiconj (BitVec.ofNat 16) bitstepUnmasked crcBitstep := ofNat_bitstepUnmasked
  rw [crcUpdateMaskedOnce, ← BitVec.toNat_ofNat, hsteps.iterate_right 8, ofNat_xor_mul_256, crcUpdate_eq_iterate]

end Sys2Proof.Machine

/-! # Proofs: the chunker, and what the messages deliver of the image (spec/41_chunker.md) -/

namespace Sys2Proof.Machine

open Sys2Proof.Safety

/-! ## Slices of whole frames -/

/-- A slice is known from the reads of its bytes. -/
theorem Memory.slice_of_read {m : Memory} {a : Nat} {bs : List Byte}
    (h : ∀ k, k < bs.length → Memory.read m (a + k) = bs[k]?) : Memory.slice m a bs.length = some bs := by
  induction bs generalizing a with
  | nil => simp
  | cons b bs ih =>
    have hhead : Memory.read m a = some b := h 0 (by simp)
    have htail : Memory.slice m (a + 1) bs.length = some bs := ih fun k hk => by
      rw [show a + 1 + k = a + (k + 1) by omega]
      exact h (k + 1) (by simpa using hk)
    exact Memory.slice_succ.2 ⟨b, bs, hhead, htail, rfl⟩

/-- The frame that FRAME_AT answers continues the frames before it (R135). -/
theorem slice_append_frameAt {s : State} {c n : Nat} {bs : List Byte} {f : Frame}
    (hbs : Memory.slice s.image (8 * c) (8 * n) = some bs) (hf : frameAt s (c + n) = .ok f) :
    Memory.slice s.image (8 * c) (8 * (n + 1)) = some (bs ++ frameBytes f) := by
  obtain ⟨-, hframe⟩ := frameAt_eq_ok.1 hf
  rw [Nat.mul_add] at hframe
  exact Memory.slice_append hbs hframe

/-! ## What one emitted operation carries -/

theorem carried_append (tr ops : List TransportOp) : carried (tr ++ ops) = ops.foldl carry (carried tr) :=
  List.foldl_append

@[simp] theorem carry_connect (d : Delivery) : carry d .connect = .fresh := rfl

@[simp] theorem carry_close (d : Delivery) : carry d .close = d := rfl

@[simp] theorem carry_programStartMsg (d : Delivery) (p : Params) : carry d (programStartMsg p) = d := rfl

@[simp] theorem carry_writeFrameMsg (d : Delivery) (f : Frame) :
    carry d (writeFrameMsg f) = { d with pending := d.pending ++ frameBytes f, writes := d.writes + 1 } := rfl

@[simp] theorem carry_lastFrameMarkMsg (d : Delivery) : carry d lastFrameMarkMsg = d := rfl

@[simp] theorem carry_crcChallengeMsg (d : Delivery) (p : Params) (f : Frame) :
    carry d (crcChallengeMsg p f) = { d with pending := d.pending ++ frameBytes f } := rfl

@[simp] theorem carry_crcOkMsg (d : Delivery) (p : Params) :
    carry d (crcOkMsg p) = { accepted := d.accepted ++ d.pending, pending := [], writes := 0 } := rfl

@[simp] theorem carry_crcFailMsg (d : Delivery) (p : Params) :
    carry d (crcFailMsg p) = { d with pending := [], writes := 0 } := rfl

@[simp] theorem carry_programEndMsg (d : Delivery) (p : Params) : carry d (programEndMsg p) = d := rfl

/-- The marker that may precede a challenge carries nothing. -/
theorem carried_sendChallenge (marker : Bool) (f : Frame) (s : State) :
    carried (sendChallenge marker f s).trace =
      { carried s.trace with pending := (carried s.trace).pending ++ frameBytes f } := by
  cases marker <;> simp [carried_append]

/-! ## The delivery, state by state -/

/-- The accepted bytes are the committed frames, the pending ones the `more` frames after them, and the page has had
one MSG.WRITE_FRAME for each frame before the current one. -/
def pageDelivered (s : State) (more : Nat) : Prop :=
  deliveredUpTo s s.committedFrameIndex more ∧ (carried s.trace).writes = s.frameInPage.val

section
variable {s : State}

theorem deliveryExact_of_aborted (h : s.state = .aborted) : deliveryExact s := by
  simp [deliveryExact, challenged, h]

theorem deliveryExact_iff_of_erasing (h : s.state = .erasing) :
    deliveryExact s ↔ carried s.trace = Delivery.fresh := by
  simp [deliveryExact, challenged, h]

theorem deliveryExact_iff_of_transferring (h : s.state = .transferring) :
    deliveryExact s ↔ pageDelivered s s.frameInPage.val := by
  simp [deliveryExact, pageDelivered, challenged, h]

theorem deliveryExact_iff_of_challenged (h : challenged s.state) :
    deliveryExact s ↔ pageDelivered s (s.frameInPage.val + 1) := by
  rcases h with hs | hs | hs <;> simp [deliveryExact, pageDelivered, challenged, hs]

theorem deliveryExact_iff_of_consumed (h : s.state = .completing ∨ s.state = .done) :
    deliveryExact s ↔ Memory.slice s.image 0 s.imageLen = some (carried s.trace).accepted := by
  rcases h with hs | hs <;> simp [deliveryExact, challenged, hs]

/-! ## What the rules do to a page under way -/

/-- The current frame sent, whether by MSG.WRITE_FRAME or as the challenge, is one more pending frame. -/
theorem deliveredUpTo_sent {t : State} {c n : Nat} {f : Frame} (hd : deliveredUpTo s c n)
    (hf : frameAt s (c + n) = .ok f) (himage : t.image = s.image)
    (haccepted : (carried t.trace).accepted = (carried s.trace).accepted)
    (hpending : (carried t.trace).pending = (carried s.trace).pending ++ frameBytes f) :
    deliveredUpTo t c (n + 1) := by
  obtain ⟨hacc, hpend⟩ := hd
  refine ⟨?_, ?_⟩
  · rw [himage, haccepted, hacc]
  · rw [himage, hpending]
    exact slice_append_frameAt hpend hf

/-- An accepted page's frames join the committed ones (R162). -/
theorem slice_accepted_pending {c n : Nat} (hd : deliveredUpTo s c n) :
    Memory.slice s.image 0 (8 * (c + n)) = some ((carried s.trace).accepted ++ (carried s.trace).pending) := by
  obtain ⟨hacc, hpend⟩ := hd
  rw [Nat.mul_add]
  exact Memory.slice_append hacc (by rwa [Nat.zero_add])

/-- At the start of a page nothing is pending. -/
theorem pageDelivered_at_page_start (hacc : Memory.slice s.image 0 (8 * s.committedFrameIndex) =
      some (carried s.trace).accepted) (hpend : (carried s.trace).pending = [])
    (hwrites : (carried s.trace).writes = 0) (hfip : s.frameInPage = 0) :
    pageDelivered s s.frameInPage.val := by
  refine ⟨⟨hacc, ?_⟩, ?_⟩
  · simp [hfip, hpend]
  · simp [hfip, hwrites]

/-- START begins a delivery that has carried nothing (R151). -/
theorem deliveryExact_startAccepted (len : Nat) :
    deliveryExact (emit (programStartMsg s.params) (emit .connect (beginTransfer len s))) := by
  refine (deliveryExact_iff_of_erasing rfl).2 ?_
  simp [carried_append]

/-- The first page begins with nothing carried (R153). -/
theorem deliveryExact_eraseDone (hs : s.state = .erasing) (hd : deliveryExact s) :
    deliveryExact { zeroCursor s with state := .transferring } := by
  have hfresh := (deliveryExact_iff_of_erasing hs).1 hd
  refine (deliveryExact_iff_of_transferring rfl).2 (pageDelivered_at_page_start ?_ ?_ ?_ rfl) <;>
    simp [hfresh, Delivery.fresh]

/-- MSG.WRITE_FRAME carries the current frame, and the cursor moves to the one after it (R155). -/
theorem deliveryExact_frameSent {f : Frame} (hs : s.state = .transferring) (hf : frameAt s (curIndex s) = .ok f)
    (hm : classify s = .midPage) (hd : deliveryExact s) :
    deliveryExact (sendFrame f { s with crcAccumulator := crcFold8 s.crcAccumulator f }) := by
  obtain ⟨hdelivered, hwrites⟩ := (deliveryExact_iff_of_transferring hs).1 hd
  obtain ⟨-, hboundary⟩ := classify_eq_midPage.1 hm
  rw [deliveryExact_iff_of_transferring (by simpa using hs), sendFrame_frameInPage, nextFrameInPage_val hboundary]
  refine ⟨deliveredUpTo_sent hdelivered hf rfl ?_ ?_, ?_⟩
  · simp [carried_append]
  · simp [carried_append]
  · simp [carried_append, hwrites, nextFrameInPage_val hboundary]

/-- The challenge carries the current frame, and the cursor stays on it (R155). -/
theorem deliveryExact_challengeSent {f : Frame} (marker : Bool) (hs : s.state = .transferring)
    (hf : frameAt s (curIndex s) = .ok f) (hd : deliveryExact s) :
    deliveryExact (sendChallenge marker f { s with crcAccumulator := crcFold8 s.crcAccumulator f }) := by
  obtain ⟨hdelivered, hwrites⟩ := (deliveryExact_iff_of_transferring hs).1 hd
  refine (deliveryExact_iff_of_challenged (.inl rfl)).2 ⟨deliveredUpTo_sent hdelivered hf rfl ?_ ?_, ?_⟩
  · rw [carried_sendChallenge]
  · rw [carried_sendChallenge]
  · rw [carried_sendChallenge]
    exact hwrites

/-- PAGE_ACCEPT turns the pending bytes into accepted ones; after the last page they are the whole image (R162). -/
theorem deliveryExact_pageAccepted (hs : s.state = .pageAccepted) (hinv : StateInv s) (hd : deliveryExact s) :
    deliveryExact (pageTaken s) := by
  obtain ⟨hdelivered, -⟩ := (deliveryExact_iff_of_challenged (.inr (.inl hs))).1 hd
  have hcarried : carried (pageTaken s).trace =
      { accepted := (carried s.trace).accepted ++ (carried s.trace).pending, pending := [], writes := 0 } := by
    simp [pageTaken, carried_append]
  have hacc : Memory.slice (pageTaken s).image 0 (8 * committedAfter s) =
      some (carried (pageTaken s).trace).accepted := by
    rw [hcarried]
    exact slice_accepted_pending hdelivered
  by_cases hall : committedAfter s = totalFrames s.imageLen
  · have hstate : (pageTaken s).state = .completing := by simp [pageTaken, allConsumed, hall]
    obtain ⟨haligned, -⟩ := hinv.aligned (by simp [hs])
    have hlen : 8 * totalFrames s.imageLen = s.imageLen := Nat.mul_div_cancel' (Nat.dvd_of_mod_eq_zero haligned)
    rw [hall, hlen] at hacc
    exact (deliveryExact_iff_of_consumed (.inl hstate)).2 hacc
  · have hstate : (pageTaken s).state = .transferring := by simp [pageTaken, allConsumed, hall]
    refine (deliveryExact_iff_of_transferring hstate).2 (pageDelivered_at_page_start hacc ?_ ?_ rfl) <;> rw [hcarried]

/-- PAGE_REJECT drops the pending bytes and sends the page again from its first frame (R164). -/
theorem deliveryExact_pageRejected (hs : s.state = .pageRejected) (hd : deliveryExact s) :
    deliveryExact { restartPage (emit (crcFailMsg s.params) s) with state := .transferring } := by
  obtain ⟨⟨hacc, -⟩, -⟩ := (deliveryExact_iff_of_challenged (.inr (.inr hs))).1 hd
  refine (deliveryExact_iff_of_transferring rfl).2 (pageDelivered_at_page_start ?_ ?_ ?_ rfl) <;>
    simp [carried_append, hacc]

/-- MSG.PROGRAM_END and `Close` carry nothing (R166). -/
theorem deliveryExact_completed (hs : s.state = .completing) (hd : deliveryExact s) :
    deliveryExact (finished s) := by
  have hcarried : carried (finished s).trace = carried s.trace := by simp [finished, carried_append]
  rw [deliveryExact_iff_of_consumed (.inr rfl), hcarried]
  exact (deliveryExact_iff_of_consumed (.inl hs)).1 hd

end

/-! ## Every step keeps the delivery exact -/

/-- Every rule keeps what the messages carried equal to the image, frame for frame (R138, R182). -/
theorem Moves.keeps_deliveryExact {s t : State} (h : Moves s t) (hinv : StateInv s) (hd : deliveryExact s) :
    deliveryExact t := by
  cases h with
  | stay | cancelRecorded => exact hd
  | startMisaligned hs | startEmpty hs => exact deliveryExact_of_idle hs
  | startAccepted len => exact deliveryExact_startAccepted len
  | abort => exact deliveryExact_of_aborted rfl
  | eraseDone hs => exact deliveryExact_eraseDone hs hd
  | frameSent f hs _ hf hm => exact deliveryExact_frameSent hs hf hm hd
  | challengeSent f marker hs _ hf => exact deliveryExact_challengeSent marker hs hf hd
  | crcEqual r hs =>
    have hpage := (deliveryExact_iff_of_challenged (.inl hs)).1 hd
    exact (deliveryExact_iff_of_challenged (.inr (.inl rfl))).2 hpage
  | crcUnequal r v hs =>
    have hpage := (deliveryExact_iff_of_challenged (.inl hs)).1 hd
    exact (deliveryExact_iff_of_challenged (.inr (.inr rfl))).2 hpage
  | pageAccepted hs => exact deliveryExact_pageAccepted hs hinv hd
  | pageRejected hs => exact deliveryExact_pageRejected hs hd
  | completed hs => exact deliveryExact_completed hs hd
  | wasReset => exact deliveryExact_of_idle rfl

/-- Settles O45: fetching touches neither the image, the trace nor the cursor, and every rule keeps the delivery. -/
theorem everyStepKeepsTheDeliveryExact : Obligations.EveryStepKeepsTheDeliveryExact := by
  intro s t hp hinv hd hstep
  exact (step_moves hp hstep).keeps_deliveryExact (stateInv_taken hinv) hd

/-! ## FRAME_AT -/

theorem withFrame_outOfRange {index : Nat} {s : State} (h : s.imageLen < 8 * index + 8) (k : Frame → State) :
    withFrame index s k = .next (abortedFrom s .outOfRange) := by
  rw [withFrame, frameAt_eq_outOfRange.2 h, abortEntry_eq_abortedFrom]

/-- Settles O15: the three rows work on a frame, FRAME_AT on its operand's and the messages on the current one. -/
theorem frameOutsideTheImageAborts : Obligations.FrameOutsideTheImageAborts := by
  refine ⟨fun s index h => withFrame_outOfRange h _, fun s i h hi => ?_⟩
  rcases hi with rfl | rfl
  · exact withFrame_outOfRange h _
  · exact withFrame_outOfRange h _

/-- Settles O22: the eight bytes read are the slice that FRAME_AT answers. -/
theorem frameAtAnswersTheImageBytes : Obligations.FrameAtAnswersTheImageBytes := by
  intro s index f hlen hread
  have hslice : Memory.slice s.image (8 * index) 8 = some (frameBytes f) :=
    Memory.slice_of_read (bs := frameBytes f) hread
  exact withFrame_ok (frameAt_eq_ok.2 ⟨hlen, hslice⟩)

/-! ## The pure operations -/

theorem exec_byteAddr (index : Nat) (k : BitVec 3) (s : State) :
    exec (.byteAddr index k) s = .next { s with opResult := .offset (8 * index + k.toNat) } := rfl

theorem exec_classify (s : State) : exec .classify s = .next { s with opResult := .cls (classify s) } := rfl

/-- An index of IDX_W bits leaves room for the three bits of a byte's place in its frame (R131). -/
theorem byteAddr_lt_two_pow_addrW {p : Params} {index k : Nat} (hp : 3 ≤ p.addrW) (hindex : index < 2 ^ idxW p)
    (hk : k < 8) : 8 * index + k < 2 ^ p.addrW := by
  have hpow : 2 ^ p.addrW = 2 ^ idxW p * 8 := (Nat.pow_sub_mul_pow 2 hp).symm
  omega

/-- Settles O23: three bits are appended to an index that is three bits shorter than an offset. -/
theorem byteAddressFitsItsWidth : Obligations.ByteAddressFitsItsWidth := by
  intro s t index k hp hw hx
  obtain rfl := Host.Outcome.next.inj ((exec_byteAddr index k s).symm.trans hx)
  have hindex : index < 2 ^ idxW s.params := by simpa [wellFormed, fitsIndex] using hw
  have hk : k.toNat < 8 := k.isLt
  exact ⟨8 * index + k.toNat, rfl, byteAddr_lt_two_pow_addrW hp hindex hk, by omega⟩

theorem isLastFrame_eq_decide (index len : Nat) : isLastFrame index len = decide (index + 1 = len / 8) := rfl

theorem isPageBoundary_toNat (b : BitVec 8) : isPageBoundary b.toNat = decide (b = 249#8) := by
  simp [isPageBoundary, BitVec.toNat_eq, beq_eq_decide]

/-- Settles O21: each row answers its function, and CLASSIFY's is decided by the two tests of R137 in their order. -/
theorem chunkerOperationsAnswerTheirFunctions : Obligations.ChunkerOperationsAnswerTheirFunctions := by
  refine fun s => ⟨fun index k => exec_byteAddr index k s, fun len => rfl, fun index len => ?_, fun b => ?_, rfl,
    fun hlast => ?_, fun hlast hboundary => ?_, fun hlast hboundary => ?_⟩
  · rw [← isLastFrame_eq_decide]
    rfl
  · rw [← isPageBoundary_toNat]
    rfl
  · rw [exec_classify, classify_eq_challenge.2 ⟨iff_of_true rfl hlast, nofun⟩]
  · rw [exec_classify, classify_eq_challenge.2 ⟨iff_of_false Bool.false_ne_true hlast, fun _ => hboundary⟩]
  · rw [exec_classify, classify_eq_midPage.2 ⟨hlast, hboundary⟩]

end Sys2Proof.Machine

/-! # Proofs: the transfer state machine (spec/42_state_machine.md) -/

namespace Sys2Proof.Machine

open Sys2Proof.Safety

/-! ## What the rules that begin a transfer leave -/

/-- What an accepted START leaves (R151). -/
def begun (len : Nat) (s : State) : State := emit (programStartMsg s.params) (emit .connect (beginTransfer len s))

/-- What a start response that proceeds leaves (R153). -/
def erased (s : State) : State := { zeroCursor s with state := .transferring }

/-! ## The state invariants, state by state -/

section
variable {s : State}

theorem stateInv_of_idle (hs : s.state = .idle) (hheld : s.tpHeld = false) (herror : errorFits .idle s.error) :
    StateInv s where
  frame_le := Nat.le_of_lt_succ s.frameInPage.isLt
  committed_le := absurd hs
  aligned := absurd hs
  fresh := by simp [hs]
  inImage := by simp [onFrame, hs]
  atChallenge := by simp [challenged, hs]
  consumed := by simp [hs]
  held := by simp [holdsTransport, hs, hheld]
  errors := hs ▸ herror

/-- A transfer that was given up keeps its cursor, which stands inside the image (R200). -/
theorem stateInv_of_aborted (hs : s.state = .aborted) (hle : s.committedFrameIndex ≤ totalFrames s.imageLen)
    (hlen : s.imageLen % 8 = 0 ∧ 1 ≤ totalFrames s.imageLen) (hheld : s.tpHeld = false) (herror : abortKind s.error) :
    StateInv s where
  frame_le := Nat.le_of_lt_succ s.frameInPage.isLt
  committed_le := fun _ => hle
  aligned := fun _ => hlen
  fresh := by simp [hs]
  inImage := by simp [onFrame, hs]
  atChallenge := by simp [challenged, hs]
  consumed := by simp [hs]
  held := by simp [holdsTransport, hs, hheld]
  errors := by simpa [errorFits, hs] using herror

theorem stateInv_of_erasing (hs : s.state = .erasing) (hlen : s.imageLen % 8 = 0 ∧ 1 ≤ totalFrames s.imageLen)
    (hfresh : s.committedFrameIndex = 0 ∧ s.frameInPage = 0 ∧ s.crcAccumulator = 0) (hheld : s.tpHeld = true)
    (herror : s.error = .none) : StateInv s where
  frame_le := Nat.le_of_lt_succ s.frameInPage.isLt
  committed_le := fun _ => by simp [hfresh]
  aligned := fun _ => hlen
  fresh := fun _ => hfresh
  inImage := by simp [onFrame, hs]
  atChallenge := by simp [challenged, hs]
  consumed := by simp [hs]
  held := by simp [holdsTransport, hs, hheld]
  errors := by simpa [errorFits, hs] using herror

/-- The cursor stands on a frame, which has been sent as a challenge only at a page's end or at the image's. -/
theorem stateInv_of_onFrame (hs : onFrame s.state) (hlen : s.imageLen % 8 = 0 ∧ 1 ≤ totalFrames s.imageLen)
    (hin : s.committedFrameIndex % 250 = 0 ∧ curIndex s < totalFrames s.imageLen)
    (hend : challenged s.state → s.frameInPage.val = 249 ∨ curIndex s + 1 = totalFrames s.imageLen)
    (hheld : s.tpHeld = true) (herror : s.error = .none) : StateInv s where
  frame_le := Nat.le_of_lt_succ s.frameInPage.isLt
  committed_le := fun _ => (Nat.le_add_right _ s.frameInPage.val).trans hin.2.le
  aligned := fun _ => hlen
  fresh := by rcases hs with hs | hs | hs | hs <;> simp [hs]
  inImage := fun _ => hin
  atChallenge := hend
  consumed := by rcases hs with hs | hs | hs | hs <;> simp [hs]
  held := by rcases hs with hs | hs | hs | hs <;> simp [holdsTransport, hs, hheld]
  errors := by rcases hs with hs | hs | hs | hs <;> simpa [errorFits, hs] using herror

/-- Every frame is committed; the transport is held until the transfer is done. -/
theorem stateInv_of_consumed (hs : s.state = .completing ∨ s.state = .done)
    (hlen : s.imageLen % 8 = 0 ∧ 1 ≤ totalFrames s.imageLen)
    (hall : s.committedFrameIndex = totalFrames s.imageLen ∧ s.frameInPage = 0 ∧ s.crcAccumulator = 0)
    (hheld : s.tpHeld = true ↔ s.state = .completing) (herror : s.error = .none) : StateInv s where
  frame_le := Nat.le_of_lt_succ s.frameInPage.isLt
  committed_le := fun _ => hall.1.le
  aligned := fun _ => hlen
  fresh := by rcases hs with hs | hs <;> simp [hs]
  inImage := by rcases hs with hs | hs <;> simp [onFrame, hs]
  atChallenge := by rcases hs with hs | hs <;> simp [challenged, hs]
  consumed := fun _ => hall
  held := by rcases hs with hs | hs <;> simp [holdsTransport, hs, hheld]
  errors := by rcases hs with hs | hs <;> simpa [errorFits, hs] using herror

/-! ## What the rules do to a state that meets the invariants -/

theorem error_of_holdsTransport (hinv : StateInv s) (hs : holdsTransport s.state) : s.error = .none := by
  have herror := hinv.errors
  rcases hs with hs | hs | hs | hs | hs | hs <;> simpa [errorFits, hs] using herror

theorem ne_idle_of_holdsTransport (hs : holdsTransport s.state) : s.state ≠ .idle := by
  rcases hs with hs | hs | hs | hs | hs | hs <;> simp [hs]

theorem holdsTransport_of_onFrame (hs : onFrame s.state) : holdsTransport s.state := by
  rcases hs with hs | hs | hs | hs <;> simp [holdsTransport, hs]

theorem onFrame_of_challenged (hs : challenged s.state) : onFrame s.state := .inr hs

theorem stateInv_abortEntry {k : ErrorKind} (hinv : StateInv s) (hs : holdsTransport s.state) (hk : abortKind k) :
    StateInv (abortEntry k s) :=
  have hne := ne_idle_of_holdsTransport hs
  stateInv_of_aborted rfl (hinv.committed_le hne) (hinv.aligned hne) rfl hk

/-- The transfer begins with nothing committed, of an image of at least one whole frame (R151). -/
theorem stateInv_begun {len : Nat} (ha : len % 8 = 0) (hl : totalFrames len ≠ 0) : StateInv (begun len s) :=
  stateInv_of_erasing rfl ⟨ha, Nat.one_le_iff_ne_zero.2 hl⟩ ⟨rfl, rfl, rfl⟩ rfl rfl

/-- The cursor is put on the first frame (R153). -/
theorem stateInv_erased (hinv : StateInv s) (hs : s.state = .erasing) : StateInv (erased s) := by
  have hholds : holdsTransport s.state := .inl hs
  have hlen := hinv.aligned (ne_idle_of_holdsTransport hholds)
  have hheld := tpHeld_of_holdsTransport hinv hholds
  have herror := error_of_holdsTransport hinv hholds
  exact stateInv_of_onFrame (.inl rfl) hlen ⟨rfl, hlen.2⟩ (by simp [challenged, erased]) hheld herror

/-- A step from a frame of a page to a state on a frame of the same page: it stays inside the image and stands at a
challenge only where a page or the image ends. -/
theorem stateInv_same_page {t : State} (hinv : StateInv s) (hs : onFrame s.state) (ht : onFrame t.state)
    (hlen : t.imageLen = s.imageLen) (hcommitted : t.committedFrameIndex = s.committedFrameIndex)
    (hin : curIndex t < totalFrames s.imageLen)
    (hend : challenged t.state → t.frameInPage.val = 249 ∨ curIndex t + 1 = totalFrames s.imageLen)
    (hheld : t.tpHeld = s.tpHeld) (herror : t.error = s.error) : StateInv t := by
  have hholds := holdsTransport_of_onFrame hs
  obtain ⟨hpage, -⟩ := hinv.inImage hs
  have haligned := hinv.aligned (ne_idle_of_holdsTransport hholds)
  rw [← hlen] at haligned hin hend
  exact stateInv_of_onFrame ht haligned ⟨by rw [hcommitted, hpage], hin⟩ hend
    (by rw [hheld, tpHeld_of_holdsTransport hinv hholds]) (by rw [herror, error_of_holdsTransport hinv hholds])

/-- In mid-page there is a next frame, in the page and in the image (R137, R155). -/
theorem stateInv_frameSent {f : Frame} (hinv : StateInv s) (hs : s.state = .transferring)
    (hm : classify s = .midPage) :
    StateInv (sendFrame f { s with crcAccumulator := crcFold8 s.crcAccumulator f }) := by
  obtain ⟨hlast, hboundary⟩ := classify_eq_midPage.1 hm
  obtain ⟨-, hcur⟩ := hinv.inImage (.inl hs)
  have hnext : curIndex (sendFrame f { s with crcAccumulator := crcFold8 s.crcAccumulator f }) = curIndex s + 1 :=
    congrArg (s.committedFrameIndex + ·) (nextFrameInPage_val hboundary)
  exact stateInv_same_page hinv (.inl hs) (.inl hs) rfl rfl (by omega) (by simp [challenged, hs]) rfl rfl

/-- A frame is sent as a challenge where its page or the image ends (R137, R155). -/
theorem stateInv_challengeSent {f : Frame} {m : Bool} (hinv : StateInv s) (hs : s.state = .transferring)
    (hm : classify s = .challenge m) :
    StateInv (sendChallenge m f { s with crcAccumulator := crcFold8 s.crcAccumulator f }) := by
  obtain ⟨hlast, hboundary⟩ := classify_eq_challenge.1 hm
  obtain ⟨-, hcur⟩ := hinv.inImage (.inl hs)
  refine stateInv_same_page hinv (.inl hs) (.inr (.inl rfl)) rfl rfl hcur (fun _ => ?_) rfl rfl
  cases m with
  | false => exact .inl (hboundary rfl)
  | true => exact .inr (hlast.1 rfl)

/-- The answer to a challenge leaves the cursor on the challenged frame (R160). -/
theorem stateInv_answered {st : ProtoState} (hinv : StateInv s) (hs : s.state = .awaitingPageCrc)
    (hst : challenged st) : StateInv { s with state := st } := by
  have hchallenged : challenged s.state := .inl hs
  obtain ⟨-, hcur⟩ := hinv.inImage (onFrame_of_challenged hchallenged)
  exact stateInv_same_page hinv (onFrame_of_challenged hchallenged) (onFrame_of_challenged hst) rfl rfl hcur
    (fun _ => hinv.atChallenge hchallenged) rfl rfl

/-- A rejected page begins again at its first frame (R164). -/
theorem stateInv_pageRejected (hinv : StateInv s) (hs : s.state = .pageRejected) :
    StateInv { restartPage (emit (crcFailMsg s.params) s) with state := .transferring } := by
  have hon : onFrame s.state := .inr (.inr (.inr hs))
  obtain ⟨-, hcur⟩ := hinv.inImage hon
  have hin : s.committedFrameIndex < totalFrames s.imageLen := (Nat.le_add_right _ _).trans_lt hcur
  exact stateInv_same_page hinv hon (.inl rfl) rfl rfl hin (by simp [challenged]) rfl rfl

/-- A page that is not the image's last has 250 frames, so the next one begins at a multiple of 250 inside the image;
after the last page every frame is committed (R162). -/
theorem stateInv_pageTaken (hinv : StateInv s) (hs : s.state = .pageAccepted) : StateInv (pageTaken s) := by
  have hon : onFrame s.state := .inr (.inr (.inl hs))
  have hholds := holdsTransport_of_onFrame hon
  have hlen := hinv.aligned (ne_idle_of_holdsTransport hholds)
  have hheld := tpHeld_of_holdsTransport hinv hholds
  have herror := error_of_holdsTransport hinv hholds
  obtain ⟨hpage, hcur⟩ := hinv.inImage hon
  by_cases hall : committedAfter s = totalFrames s.imageLen
  · have hstate : (pageTaken s).state = .completing := by simp [pageTaken, allConsumed, hall]
    exact stateInv_of_consumed (.inl hstate) hlen ⟨hall, rfl, rfl⟩ (iff_of_true hheld hstate) herror
  · have hstate : (pageTaken s).state = .transferring := by simp [pageTaken, allConsumed, hall]
    have hfull : s.frameInPage.val = 249 := (hinv.atChallenge (.inr (.inl hs))).resolve_right hall
    have hnext : committedAfter s % 250 = 0 := by
      unfold committedAfter
      omega
    have hin : committedAfter s < totalFrames s.imageLen := lt_of_le_of_ne hcur hall
    exact stateInv_of_onFrame (.inl hstate) hlen ⟨hnext, hin⟩ (by simp [challenged, hstate]) hheld herror

/-- COMPLETE keeps the cursor behind the last frame (R166). -/
theorem stateInv_finished (hinv : StateInv s) (hs : s.state = .completing) : StateInv (finished s) := by
  have hholds : holdsTransport s.state := by simp [holdsTransport, hs]
  have hlen := hinv.aligned (ne_idle_of_holdsTransport hholds)
  have herror := error_of_holdsTransport hinv hholds
  exact stateInv_of_consumed (.inr rfl) hlen (hinv.consumed (.inl hs)) (by simp [finished]) herror

end

/-! ## Every step keeps the state invariants -/

theorem holdsTransport_of_abortable {st : ProtoState}
    (hs : st = .erasing ∨ st = .transferring ∨ st = .awaitingPageCrc) : holdsTransport st := by
  rcases hs with rfl | rfl | rfl <;> simp [holdsTransport]

/-- Every rule keeps the state invariants (R180). -/
theorem Moves.keeps_stateInv {s t : State} (h : Moves s t) (hinv : StateInv s) : StateInv t := by
  cases h with
  | stay => exact hinv
  | startMisaligned hs | startEmpty hs =>
    have hheld := tpHeld_of_idle hinv hs
    exact stateInv_of_idle hs hheld (by simp [errorFits])
  | startAccepted len _ ha hl => exact stateInv_begun ha hl
  | abort k hs hk => exact stateInv_abortEntry hinv (holdsTransport_of_abortable hs) hk
  | eraseDone hs => exact stateInv_erased hinv hs
  | frameSent f hs _ _ hm => exact stateInv_frameSent hinv hs hm
  | challengeSent f m hs _ _ hm => exact stateInv_challengeSent hinv hs hm
  | crcEqual r hs => exact stateInv_answered hinv hs (.inr (.inl rfl))
  | crcUnequal r v hs => exact stateInv_answered hinv hs (.inr (.inr rfl))
  | pageAccepted hs => exact stateInv_pageTaken hinv hs
  | pageRejected hs => exact stateInv_pageRejected hinv hs
  | completed hs => exact stateInv_finished hinv hs
  | cancelRecorded =>
    exact ⟨hinv.frame_le, hinv.committed_le, hinv.aligned, hinv.fresh, hinv.inImage, hinv.atChallenge, hinv.consumed,
      hinv.held, hinv.errors⟩
  | wasReset => exact stateInv_of_idle rfl rfl (.inl rfl)

/-- Only START and RESET write `image_len`, and they leave or enter `Idle` (R20, R25). -/
theorem Moves.imageLen_in_transfer {s t : State} (h : Moves s t) (hs : s.state ≠ .idle) (ht : t.state ≠ .idle) :
    t.imageLen = s.imageLen := by
  cases h with
  | startAccepted _ hidle => exact absurd hidle hs
  | wasReset => exact absurd rfl ht
  | _ => rfl

/-- A step of the spec's own leaves no row placed (log 7). -/
theorem step_probe_none {s t : State} (hp : s.probe = none) (h : step s = .next t) : t.probe = none := by
  rcases step_next_cases hp h with ⟨i, -, -, hx⟩ | ⟨-, rfl⟩
  · obtain ⟨-, -, -, hprobe⟩ := exec_sameSurroundings hx
    exact hprobe.trans hp
  · exact hp

/-- Settles O42: fetching writes no register, and every rule keeps the invariants and, in a transfer, `image_len`. -/
theorem everyStepKeepsTheStateInvariants : Obligations.EveryStepKeepsTheStateInvariants := by
  intro s t hp hinv hstep
  have hmove := step_moves hp hstep
  exact ⟨hmove.keeps_stateInv (stateInv_taken hinv), step_probe_none hp hstep, hmove.imageLen_in_transfer⟩

/-! ## The accumulator -/

/-- One more frame folded (R114, R115). -/
theorem foldedFrames_succ {s t : State} {n : Nat} {f : Frame} (hfold : foldedFrames s n)
    (hf : frameAt s (s.committedFrameIndex + n) = .ok f) (himage : t.image = s.image)
    (hcommitted : t.committedFrameIndex = s.committedFrameIndex)
    (hcrc : t.crcAccumulator = crcFold8 s.crcAccumulator f) : foldedFrames t (n + 1) := by
  obtain ⟨bs, hbs, hacc⟩ := hfold
  refine ⟨bs ++ frameBytes f, ?_, ?_⟩
  · rw [himage, hcommitted]
    exact slice_append_frameAt hbs hf
  · rw [hcrc, hacc, crcFold8_eq, crcSeq_append]

/-- At the start of a page nothing is folded yet (R24). -/
theorem foldedFrames_zero {s : State} (hcrc : s.crcAccumulator = 0) : foldedFrames s 0 :=
  ⟨[], by simp, hcrc⟩

section
variable {s : State}

theorem accumulatorExact_iff_of_transferring (hs : s.state = .transferring) :
    accumulatorExact s ↔ foldedFrames s s.frameInPage.val := by
  simp [accumulatorExact, challenged, hs]

theorem accumulatorExact_iff_of_challenged (hs : challenged s.state) :
    accumulatorExact s ↔ foldedFrames s (s.frameInPage.val + 1) := by
  rcases hs with hs | hs | hs <;> simp [accumulatorExact, challenged, hs]

/-- The invariant says nothing outside a page. -/
theorem accumulatorExact_of_not_onFrame (hs : ¬ onFrame s.state) : accumulatorExact s :=
  ⟨fun h => absurd (.inl h) hs, fun h => absurd (.inr h) hs⟩

theorem accumulatorExact_at_page_start (hs : s.state = .transferring) (hfip : s.frameInPage = 0)
    (hcrc : s.crcAccumulator = 0) : accumulatorExact s := by
  rw [accumulatorExact_iff_of_transferring hs, hfip]
  exact foldedFrames_zero hcrc

/-- In mid-page the cursor moves to the frame after the one folded (R155). -/
theorem accumulatorExact_frameSent {f : Frame} (hs : s.state = .transferring) (hf : frameAt s (curIndex s) = .ok f)
    (hm : classify s = .midPage) (hacc : accumulatorExact s) :
    accumulatorExact (sendFrame f { s with crcAccumulator := crcFold8 s.crcAccumulator f }) := by
  obtain ⟨-, hboundary⟩ := classify_eq_midPage.1 hm
  have hfold := (accumulatorExact_iff_of_transferring hs).1 hacc
  rw [accumulatorExact_iff_of_transferring (by simpa using hs), sendFrame_frameInPage, nextFrameInPage_val hboundary]
  exact foldedFrames_succ hfold hf rfl rfl rfl

/-- The challenged frame is folded too, and the cursor stays on it (R155). -/
theorem accumulatorExact_challengeSent {f : Frame} (m : Bool) (hs : s.state = .transferring)
    (hf : frameAt s (curIndex s) = .ok f) (hacc : accumulatorExact s) :
    accumulatorExact (sendChallenge m f { s with crcAccumulator := crcFold8 s.crcAccumulator f }) := by
  have hfold := (accumulatorExact_iff_of_transferring hs).1 hacc
  exact (accumulatorExact_iff_of_challenged (.inl rfl)).2 (foldedFrames_succ hfold hf rfl rfl rfl)

theorem accumulatorExact_answered {st : ProtoState} (hs : s.state = .awaitingPageCrc) (hst : challenged st)
    (hacc : accumulatorExact s) : accumulatorExact { s with state := st } :=
  (accumulatorExact_iff_of_challenged hst).2 ((accumulatorExact_iff_of_challenged (.inl hs)).1 hacc)

theorem accumulatorExact_pageTaken : accumulatorExact (pageTaken s) := by
  by_cases hall : committedAfter s = totalFrames s.imageLen
  · exact accumulatorExact_of_not_onFrame (by simp [pageTaken, allConsumed, hall, onFrame])
  · exact accumulatorExact_at_page_start (by simp [pageTaken, allConsumed, hall]) rfl rfl

end

/-- Every rule keeps the accumulator equal to the CRC of the page's frames folded so far (R181). -/
theorem Moves.keeps_accumulatorExact {s t : State} (h : Moves s t) (hacc : accumulatorExact s) :
    accumulatorExact t := by
  cases h with
  | stay | cancelRecorded => exact hacc
  | startMisaligned hs | startEmpty hs => exact accumulatorExact_of_idle hs
  | startAccepted | abort | completed => exact accumulatorExact_of_not_onFrame (by simp [onFrame])
  | eraseDone | pageRejected => exact accumulatorExact_at_page_start rfl rfl rfl
  | frameSent f hs _ hf hm => exact accumulatorExact_frameSent hs hf hm hacc
  | challengeSent f m hs _ hf => exact accumulatorExact_challengeSent m hs hf hacc
  | crcEqual r hs => exact accumulatorExact_answered hs (.inr (.inl rfl)) hacc
  | crcUnequal r v hs => exact accumulatorExact_answered hs (.inr (.inr rfl)) hacc
  | pageAccepted => exact accumulatorExact_pageTaken
  | wasReset => exact accumulatorExact_of_idle rfl

/-- Settles O43: fetching touches neither the image nor the cursor, and every rule keeps the accumulator exact. -/
theorem everyStepKeepsTheAccumulatorExact : Obligations.EveryStepKeepsTheAccumulatorExact := by
  intro s t hp hacc hstep
  exact (step_moves hp hstep).keeps_accumulatorExact hacc

/-! ## Which rule an event selects -/

/-- What the table of R150 selects answers the event and is enabled. -/
theorem ruleEnabled_of_selectRule {st : ProtoState} {c : Bool} {e : Event} {i : Instr}
    (h : selectRule st c e = some i) : eventOf i = some e ∧ ruleEnabled i st c := by
  cases e with
  | start len =>
    simp only [selectRule, Option.some.injEq] at h
    split at h <;> subst h
    · exact ⟨rfl, ‹_›⟩
    · exact ⟨rfl, ‹_›⟩
  | cancel | reset =>
    obtain rfl := Option.some.inj h
    exact ⟨rfl, trivial⟩
  | rsp | tmo =>
    cases st <;> cases h <;> exact ⟨rfl, rfl⟩
  | internal =>
    cases st with
    | transferring =>
      obtain rfl := Option.some.inj h
      cases c <;> exact ⟨rfl, rfl, rfl⟩
    | pageAccepted | pageRejected | completing =>
      obtain rfl := Option.some.inj h
      exact ⟨rfl, rfl⟩
    | idle | erasing | awaitingPageCrc | done | aborted => cases h

/-- A rule that is enabled is the one that the table of R150 selects for its event. -/
theorem selectRule_of_ruleEnabled {st : ProtoState} {c : Bool} {e : Event} {i : Instr}
    (he : eventOf i = some e) (h : ruleEnabled i st c) : selectRule st c e = some i := by
  cases i <;> cases he
  case startBusy len => exact congrArg some (if_neg h)
  case frame | frameCancel =>
    obtain ⟨rfl, rfl⟩ := h
    rfl
  case cancel | reset => rfl
  all_goals
    obtain rfl : st = _ := h
    rfl

/-- Settles O5: the table of R150 and the rules' "Enabled" lines say the same. -/
theorem ruleSelectedExactlyWhenEnabled : Obligations.RuleSelectedExactlyWhenEnabled :=
  fun _ _ _ _ => ⟨ruleEnabled_of_selectRule, fun ⟨he, h⟩ => selectRule_of_ruleEnabled he h⟩

/-! ## When nothing can move -/

theorem fetchProbe_ne_stuck (p : Probe) (s : State) (f : Fault) : fetchProbe p s ≠ .stuck f := by
  rcases fetchProbe_cases p s with ⟨i, h⟩ | ⟨e, h⟩ <;> rw [h]
  · exact accept_ne_stuck
  · simp

theorem deliver_ne_stuck (e : Event) (s : State) (f : Fault) : deliver e s ≠ .stuck f := by
  rcases deliver_cases e s with ⟨i, -, h⟩ | ⟨-, -, h⟩ | ⟨-, -, h⟩ <;> rw [h]
  · exact accept_ne_stuck
  · simp
  · simp

/-- Fetching is stuck exactly with no row placed, no event to come and no step of the block's own. -/
theorem fetch_eq_stuck_iff {s : State} {f : Fault} :
    fetch s = .stuck f ↔
      s.probe = none ∧ s.inputs = [] ∧ selectInternal s.state s.cancelReq = none ∧ stuckFault s.state = f := by
  cases hp : s.probe with
  | some p => simp [fetch_of_probe hp, fetchProbe_ne_stuck]
  | none =>
    cases hin : s.inputs with
    | cons e rest => simp [fetch_of_input hp hin, deliver_ne_stuck]
    | nil =>
      cases hsel : selectInternal s.state s.cancelReq with
      | some i => simp [fetch_of_no_input hp hin hsel, accept_ne_stuck]
      | none => simp [fetch, hp, hin, hsel]

/-- Only fetching faults. -/
theorem step_eq_fault_iff {s : State} {f : Fault} : step s = .fault f ↔ fetch s = .stuck f := by
  unfold step
  cases fetch s <;> simp [exec_ne_fault]

/-- The states without a step of the block's own, and what each waits for (R150, R176, R205). -/
theorem stuck_states (st : ProtoState) (c : Bool) (f : Fault) :
    selectInternal st c = none ∧ stuckFault st = f ↔
      (st = .idle ∧ f = .awaitingCommand) ∨ (blocked st ∧ f = .awaitingResult) ∨ (terminal st ∧ f = .runOver) := by
  cases st <;> simp [selectInternal, stuckFault, blocked, terminal, eq_comm]

/-- Settles O9: only fetching faults, in the states without a step of the block's own. -/
theorem stepFaultsExactlyWhenNothingCanMove : Obligations.StepFaultsExactlyWhenNothingCanMove := by
  intro s f
  rw [step_eq_fault_iff, fetch_eq_stuck_iff, stuck_states]

/-- Settles O11: no rule is selected for the block's own turn, so it passes; each of the six rules is guarded by its
"Enabled" line. -/
theorem disabledRulesDoNothing : Obligations.DisabledRulesDoNothing := by
  refine ⟨fun s rest hp hin hsel => ?_, fun s len i hi hdisabled => ?_⟩
  · have hsel' : selectRule s.state s.cancelReq .internal = none := hsel
    rw [step, fetch_of_input hp hin]
    simp [deliver, hsel']
  · rcases hi with rfl | rfl | rfl | rfl | rfl | rfl <;> exact if_neg hdisabled

/-! ## START -/

theorem exec_start_accepted {s : State} {len : Nat} (hs : s.state = .idle) (ha : len % 8 = 0)
    (hl : totalFrames len ≠ 0) :
    exec (.start len) s = .next (begun len s) := by
  simp only [exec, execStart, if_neg (not_not.2 hs), if_neg (not_not.2 ha), if_neg hl, begun]

/-- Settles O24: the alignment test comes first, then the emptiness test (R151). -/
theorem startBeginsOrRefusesTheTransfer : Obligations.StartBeginsOrRefusesTheTransfer := by
  intro s len hs
  refine ⟨fun ha => ?_, fun ha hl => ?_, fun ha hl => ?_⟩
  · simp only [exec, execStart, if_neg (not_not.2 hs), if_pos ha]
  · have hempty : totalFrames len = 0 := hl
    simp only [exec, execStart, if_neg (not_not.2 hs), if_neg (not_not.2 ha), if_pos hempty]
  · rw [exec_start_accepted hs ha hl]
    simp [begun, emit, beginTransfer, zeroCursor, programStartMsg, rep, markerLen, codeByte, startRespChannel]

/-- Settles O25: both rows test for `Idle`, and the selection does too. -/
theorem startOutsideIdleHasNoEffect : Obligations.StartOutsideIdleHasNoEffect :=
  fun _ _ hs => ⟨if_pos hs, if_pos hs, congrArg some (if_neg hs)⟩

/-! ## The responses and the timeouts -/

theorem exec_eraseResp {s : State} (hs : s.state = .erasing) (r : List Byte) :
    exec (.eraseResp r) s = .next (acceptStartStatus r s) := if_pos hs

theorem exec_crcResp {s : State} (hs : s.state = .awaitingPageCrc) (r : List Byte) :
    exec (.crcResp r) s = .next (acceptCrcAck r s) := if_pos hs

/-- Every status but 0x22 proceeds (R153). -/
theorem acceptStartStatus_of_proceed {status : Byte} (h : status ≠ 0x22#8) (more : List Byte) (s : State) :
    acceptStartStatus (status :: more) s = erased s := by
  simp [acceptStartStatus, startStatus, codeByte, h, erased]

/-- Settles O26: the length first, then the status byte. -/
theorem startResponseProceedsOrAborts : Obligations.StartResponseProceedsOrAborts := by
  intro s hs
  refine ⟨exec_eraseResp hs [], fun rest => exec_eraseResp hs _, fun status rest hstatus => ?_⟩
  rw [exec_eraseResp hs, acceptStartStatus_of_proceed hstatus]
  rfl

/-- Settles O27: each timeout is guarded by the state of its request. -/
theorem timeoutAborts : Obligations.TimeoutAborts :=
  ⟨fun _ hs => if_pos hs, fun _ hs => if_pos hs⟩

/-- A CRC response of fewer than five bytes is malformed (R91). -/
theorem decodeCrcAck_of_short (d : ByteDecode) {r : List Byte} (h : r.length < 5) : decodeCrcAck d r = none := by
  match r, h with
  | [], _ | [_], _ | [_, _], _ | [_, _, _], _ | [_, _, _, _], _ => rfl

theorem acceptCrcAck_of_malformed {r : List Byte} {s : State} (h : decodeCrcAck s.params.byteDecode r = none) :
    acceptCrcAck r s = abortedFrom s .malformedResponse := by
  simp only [acceptCrcAck, h, abortEntry_eq_abortedFrom]

/-- The retry arbiter's comparison (R160). -/
theorem acceptCrcAck_of_decode {r : List Byte} {s : State} {v : Crc}
    (h : decodeCrcAck s.params.byteDecode r = some v) :
    acceptCrcAck r s = { s with state := if v = s.crcAccumulator then .pageAccepted else .pageRejected } := by
  simp only [acceptCrcAck, h, crcMatch, beq_iff_eq]

/-- Settles O30: the length and the two pairs decide whether there is a CRC to compare. -/
theorem crcResponseDecidesThePage : Obligations.CrcResponseDecidesThePage := by
  intro s hs
  refine ⟨fun r hr => ?_, fun r0 r1 r2 r3 r4 rest => ⟨fun hpair => ?_, fun hi lo hhi hlo => ?_⟩⟩
  · rw [exec_crcResp hs, acceptCrcAck_of_malformed (decodeCrcAck_of_short _ hr)]
  · have hd : decodeCrcAck s.params.byteDecode (r0 :: r1 :: r2 :: r3 :: r4 :: rest) = none := by
      rcases hpair with hpair | hpair <;> simp [decodeCrcAck, hpair]
    rw [exec_crcResp hs, acceptCrcAck_of_malformed hd]
  · have hd : decodeCrcAck s.params.byteDecode (r0 :: r1 :: r2 :: r3 :: r4 :: rest) = some (hi ++ lo) := by
      simp [decodeCrcAck, hhi, hlo]
    rw [exec_crcResp hs, acceptCrcAck_of_decode hd]
    exact ⟨fun heq => by rw [if_pos heq], fun hne => by rw [if_neg hne]⟩

/-! ## FRAME -/

/-- Settles O29: the block's own step examines `cancel_req` before it reads a frame. -/
theorem recordedCancelAbortsBetweenFrames : Obligations.RecordedCancelAbortsBetweenFrames :=
  fun _ hs hc => ⟨if_pos ⟨hs, hc⟩, by rw [hs, hc]; rfl⟩

theorem processFrame_of_midPage {s : State} (h : classify s = .midPage) (f : Frame) :
    processFrame s f = sendFrame f { s with crcAccumulator := crcFold8 s.crcAccumulator f } := by
  simp only [processFrame, h]

theorem processFrame_of_challenge {s : State} {m : Bool} (h : classify s = .challenge m) (f : Frame) :
    processFrame s f = sendChallenge m f { s with crcAccumulator := crcFold8 s.crcAccumulator f } := by
  simp only [processFrame, h]

/-- FRAME works on the frame that FRAME_AT answers (R155). -/
theorem exec_frame {s : State} {f : Frame} (hs : s.state = .transferring) (hc : s.cancelReq = false)
    (hf : frameAt s (curIndex s) = .ok f) : exec .frame s = .next (processFrame s f) :=
  (if_pos ⟨hs, hc⟩).trans (withFrame_ok hf)

/-- Settles O28: FRAME_AT says whether the frame is in the image, and CLASSIFY how it is sent. -/
theorem frameFoldsAndSendsTheCurrentFrame : Obligations.FrameFoldsAndSendsTheCurrentFrame := by
  intro s hs hc
  refine ⟨fun hout => (if_pos ⟨hs, hc⟩).trans (withFrame_outOfRange hout _), fun f hthere => ?_⟩
  have hx := exec_frame hs hc (frameAt_eq_ok.2 hthere)
  refine ⟨fun hlast hboundary => ?_, fun hlast hboundary => ?_, fun hlast => ?_⟩
  · rw [processFrame_of_midPage (classify_eq_midPage.2 ⟨hlast, hboundary⟩)] at hx
    exact ⟨nextFrameInPage s.frameInPage, nextFrameInPage_val hboundary, hx⟩
  · have hclass : classify s = .challenge false :=
      classify_eq_challenge.2 ⟨iff_of_false Bool.false_ne_true hlast, fun _ => hboundary⟩
    rw [hx, processFrame_of_challenge hclass]
    simp [sendChallenge, crcChallengeMsg]
  · have hclass : classify s = .challenge true := classify_eq_challenge.2 ⟨iff_of_true rfl hlast, nofun⟩
    rw [hx, processFrame_of_challenge hclass]
    simp [sendChallenge, crcChallengeMsg, lastFrameMarkMsg, rep, codeByte, lastMarkLen, List.replicate]

theorem classify_depends {s s' : State} (hcommitted : s.committedFrameIndex = s'.committedFrameIndex)
    (hfip : s.frameInPage = s'.frameInPage) (hlen : s.imageLen = s'.imageLen) : classify s = classify s' := by
  unfold classify isLast isBoundary curIndex
  rw [hcommitted, hfip, hlen]

/-- Settles O55: FRAME_AT and CLASSIFY read only what the two states share, and the operations appended are made from
the frame and the parameters. -/
theorem frameDependsOnTheCursorAndTheImageAlone : Obligations.FrameDependsOnTheCursorAndTheImageAlone := by
  intro s s' t hstate hcancel hcommitted hfip hcrc hlen himage hparams hx
  have hcur : curIndex s = curIndex s' := by simp only [curIndex, hcommitted, hfip]
  have hread := frameAt_depends himage hlen (curIndex s)
  have hclass := classify_depends hcommitted hfip hlen
  simp only [exec, execFrame] at hx
  split_ifs at hx with henabled
  have henabled' : s'.state = .transferring ∧ s'.cancelReq = false := by rwa [← hstate, ← hcancel]
  rcases withFrame_next hx with ⟨f, hf, rfl⟩ | ⟨hf, rfl⟩
  · have hx' : exec .frame s' = .next (processFrame s' f) :=
      exec_frame henabled'.1 henabled'.2 (by rw [← hcur, ← hread, hf])
    cases hm : classify s with
    | midPage =>
      refine ⟨_, [writeFrameMsg f], hx', ?_⟩
      simp [processFrame_of_midPage hm, processFrame_of_midPage (hclass ▸ hm), hcrc, hfip, hstate]
    | challenge m =>
      refine ⟨_, (if m then [lastFrameMarkMsg] else []) ++ [crcChallengeMsg s.params f], hx', ?_⟩
      simp [processFrame_of_challenge hm, processFrame_of_challenge (hclass ▸ hm), hcrc, hfip, hparams]
  · have hout : s'.imageLen < 8 * curIndex s' + 8 := by
      rw [← hlen, ← hcur]
      exact frameAt_eq_outOfRange.1 hf
    exact ⟨_, [], (if_pos henabled').trans (withFrame_outOfRange hout _), hcrc, hfip, rfl, absurd rfl⟩

/-! ## The end of a page and of the transfer -/

/-- Settles O31: PAGE_ACCEPT leaves the page taken, and `all_consumed` is evaluated on the new index (R162). -/
theorem pageAcceptAdvancesByThePage : Obligations.PageAcceptAdvancesByThePage := by
  intro s hs
  have hx : exec .pageAccept s = .next (pageTaken s) := if_pos hs
  rw [hx]
  simp [pageTaken, restartPage, clearCrc, emit, crcOkMsg, rep, codeByte, markerLen, committedAfter, allConsumed,
    totalFrames]

/-- Settles O32: PAGE_REJECT is guarded by its state. -/
theorem pageRejectRewindsThePage : Obligations.PageRejectRewindsThePage := fun _ hs => if_pos hs

/-- Settles O33: COMPLETE emits its two operations one after the other. -/
theorem completeEndsAndReleases : Obligations.CompleteEndsAndReleases := by
  intro s hs
  have hx : exec .complete s = .next (finished s) := if_pos hs
  rw [hx]
  simp [finished, emit, programEndMsg, rep, codeByte, markerLen]

/-- Settles O34: a cancellation is recorded exactly in the states that hold the transport. -/
theorem cancelIsRecordedInATransfer : Obligations.CancelIsRecordedInATransfer := by
  intro s
  refine ⟨fun hs => ?_, fun hs => ?_⟩
  · exact congrArg Host.Outcome.next (if_pos ((cancellable_iff _).2 hs))
  · have hnot : ¬ cancellable s.state = true := by rcases hs with hs | hs | hs <;> simp [hs, cancellable]
    exact congrArg Host.Outcome.next (if_neg hnot)

/-! ## Where a step leads -/

/-- Whatever enters `Aborted` is the abort entry and nothing else (R200, R201). -/
theorem Moves.eq_abortEntry {s t : State} (h : Moves s t) (hs : s.state ≠ .aborted) (ht : t.state = .aborted) :
    ∃ k, t = abortEntry k s := by
  cases h with
  | abort k => exact ⟨k, rfl⟩
  | stay | startMisaligned | startEmpty | cancelRecorded => exact absurd ht hs
  | frameSent f hstate => exact absurd (hstate.symm.trans ht) (by simp)
  | pageAccepted =>
    dsimp only at ht
    split at ht <;> simp at ht
  | startAccepted | eraseDone | challengeSent | crcEqual | crcUnequal | pageRejected | completed | wasReset =>
    simp at ht

theorem not_holdsTransport_of_terminal {st : ProtoState} (h : terminal st) : ¬ holdsTransport st := by
  rcases h with rfl | rfl <;> simp [holdsTransport]

theorem tpHeld_of_terminal {s : State} (hinv : StateInv s) (h : terminal s.state) : s.tpHeld = false := by
  simpa [← hinv.held] using not_holdsTransport_of_terminal h

/-- A rule that ends the run, or finds it ended, leaves `Close` as the last emitted operation (R176). -/
theorem Moves.ends_with_close {s t : State} (h : Moves s t) (hinv : StateInv s)
    (hlast : terminal s.state → s.trace.getLast? = some .close) (ht : terminal t.state) :
    t.trace.getLast? = some .close := by
  cases h with
  | stay | startMisaligned | startEmpty | cancelRecorded => exact hlast ht
  | abort k hs =>
    have hheld := tpHeld_of_holdsTransport hinv (holdsTransport_of_abortable hs)
    simp [hheld]
  | completed => simp
  | frameSent f hs => simp [terminal, hs] at ht
  | pageAccepted =>
    dsimp only [terminal] at ht
    split at ht <;> simp at ht
  | startAccepted | eraseDone | challengeSent | crcEqual | crcUnequal | pageRejected | wasReset => simp [terminal] at ht

/-- Settles O48: the next state meets R180 (h), so a terminal one does not hold the transport. -/
theorem everyRunEndsWithClose : Obligations.EveryRunEndsWithClose := by
  intro s t hp hinv hlast hstep ht
  have hmove := step_moves hp hstep
  exact ⟨tpHeld_of_terminal (hmove.keeps_stateInv (stateInv_taken hinv)) ht,
    hmove.ends_with_close (stateInv_taken hinv) hlast ht⟩

/-- Every rule that changes the state follows a transition of R150, or is RESET with the transport not held. -/
theorem Moves.edge_of_state_ne {s t : State} (h : Moves s t) (hinv : StateInv s) (hne : t.state ≠ s.state) :
    edge s.state t.state = true := by
  cases h with
  | stay | startMisaligned | startEmpty | frameSent | cancelRecorded => exact absurd rfl hne
  | abort k hs => rcases hs with hs | hs | hs <;> rw [hs] <;> rfl
  | pageAccepted hs =>
    rw [hs]
    dsimp only
    split <;> rfl
  | wasReset hheld =>
    have hnot : ¬ holdsTransport s.state := by simp [← hinv.held, hheld]
    cases hs : s.state <;> simp [holdsTransport, hs] at hnot hne ⊢ <;> rfl
  | startAccepted _ hs | eraseDone hs | challengeSent _ _ hs | crcEqual _ hs | crcUnequal _ _ hs
  | pageRejected hs | completed hs =>
    rw [hs]
    rfl

/-- Settles O50: fetching does not touch the state, and every rule follows the transitions. -/
theorem stateChangesOnlyAlongTheTransitions : Obligations.StateChangesOnlyAlongTheTransitions := by
  intro s t hp hinv hstep hne
  exact (step_moves hp hstep).edge_of_state_ne (stateInv_taken hinv) hne

/-! ## A step outside `Idle`, by its event -/

/-- Outside `Idle` a host command other than RESET changes neither the state nor the trace; what else a step runs is a
rule for the block's own turn or for a transport result (R150, R152, R168). -/
theorem step_outside_idle {s t : State} (hp : s.probe = none) (hs : s.state ≠ .idle) (hstep : step s = .next t) :
    (t.state = s.state ∧ t.trace = s.trace) ∨
    (t = resetRegisters (taken s) ∧ ∃ rest, s.inputs = .reset :: rest) ∨
    (∃ i, selectRule s.state s.cancelReq (nextEvent s) = some i ∧ exec i (taken s) = .next t ∧
      (nextEvent s = .internal ∨ nextEvent s = .tmo ∨ ∃ r, nextEvent s = .rsp r)) := by
  rcases step_next_cases hp hstep with ⟨i, hsel, -, hx⟩ | ⟨-, rfl⟩
  · cases he : nextEvent s with
    | start len =>
      obtain rfl : Instr.startBusy len = i := by simpa [he, selectRule, hs] using hsel
      obtain rfl := eq_of_guarded_next hx
      exact .inl ⟨rfl, rfl⟩
    | cancel =>
      obtain rfl : Instr.cancel = i := by simpa [he, selectRule] using hsel
      exact .inl (exec_cancel_next (s := taken s) hx)
    | reset =>
      obtain rfl : Instr.reset = i := by simpa [he, selectRule] using hsel
      simp only [exec, execReset] at hx
      split_ifs at hx
      exact .inr (.inl ⟨(Host.Outcome.next.inj hx).symm, inputs_of_nextEvent he (by simp)⟩)
    | internal => exact .inr (.inr ⟨i, he ▸ hsel, hx, .inl rfl⟩)
    | tmo => exact .inr (.inr ⟨i, he ▸ hsel, hx, .inr (.inl rfl)⟩)
    | rsp r => exact .inr (.inr ⟨i, he ▸ hsel, hx, .inr (.inr ⟨r, rfl⟩)⟩)
  · exact .inl ⟨rfl, rfl⟩

/-- A terminal state has no rule for the block's own turn, nor for a result (R150). -/
theorem selectRule_of_terminal {st : ProtoState} (h : terminal st) (c : Bool) {e : Event}
    (he : e = .internal ∨ e = .tmo ∨ ∃ r, e = .rsp r) : selectRule st c e = none := by
  rcases h with rfl | rfl <;> rcases he with rfl | rfl | ⟨r, rfl⟩ <;> rfl

/-- Settles O51: in a terminal state only a host command has a rule, and none but RESET changes the state. -/
theorem terminalStateIsLeftOnlyByReset : Obligations.TerminalStateIsLeftOnlyByReset := by
  intro s t hp hterm hstep
  have hne : s.state ≠ .idle := by rcases hterm with hs | hs <;> simp [hs]
  rcases step_outside_idle hp hne hstep with ⟨hstate, htrace⟩ | ⟨rfl, hin⟩ | ⟨i, hsel, -, he⟩
  · exact ⟨htrace, absurd hstate⟩
  · exact ⟨rfl, fun _ => ⟨rfl, hin⟩⟩
  · simp [selectRule_of_terminal hterm _ he] at hsel

/-- A blocked state is left, but for RESET, by a timeout's abort entry or by accepting the oldest input, a response. -/
theorem step_leaves_blocked {s t : State} (hp : s.probe = none) (hb : blocked s.state) (hstep : step s = .next t)
    (hne : t.state ≠ s.state) (hidle : t.state ≠ .idle) :
    t = abortEntry .transportTimeout (taken s) ∨
      ∃ r rest, s.inputs = .rsp r :: rest ∧
        ((s.state = .erasing ∧ t = acceptStartStatus r (taken s)) ∨
          (s.state = .awaitingPageCrc ∧ t = acceptCrcAck r (taken s))) := by
  have hs : s.state ≠ .idle := ne_idle_of_holdsTransport (holdsTransport_of_blocked hb)
  rcases step_outside_idle hp hs hstep with ⟨hstate, -⟩ | ⟨rfl, -⟩ | ⟨i, hsel, hx, he | he | ⟨r, he⟩⟩
  · exact absurd hstate hne
  · exact absurd rfl hidle
  · simp [he, selectRule_internal_of_blocked hb] at hsel
  · rcases hb with hs | hs <;> simp only [he, hs, selectRule, selectResult, Option.some.injEq] at hsel <;>
      subst hsel <;> exact .inl (eq_of_guarded_next hx).symm
  · obtain ⟨rest, hin⟩ := inputs_of_nextEvent he (by simp)
    refine .inr ⟨r, rest, hin, ?_⟩
    rcases hb with hs | hs <;> simp only [he, hs, selectRule, selectResult, Option.some.injEq] at hsel <;>
      subst hsel <;> obtain rfl := eq_of_guarded_next hx
    · exact .inl ⟨hs, rfl⟩
    · exact .inr ⟨hs, rfl⟩

/-! ## The committed index -/

/-- Only RESET, which enters `Idle`, takes committed frames back: START is accepted in `Idle`, and in `Erasing` nothing
is committed yet (R180 (d)). -/
theorem Moves.committed_le {s t : State} (h : Moves s t) (hinv : StateInv s) (hs : s.state ≠ .idle)
    (ht : t.state ≠ .idle) : s.committedFrameIndex ≤ t.committedFrameIndex := by
  cases h with
  | startAccepted _ hidle => exact absurd hidle hs
  | eraseDone herasing => exact (hinv.fresh herasing).1.le
  | pageAccepted => exact Nat.le_add_right_of_le (Nat.le_add_right _ _)
  | wasReset => exact absurd rfl ht
  | _ => exact le_rfl

/-- Only PAGE_ACCEPT commits frames (R162). -/
theorem Moves.pageAccepted_of_committed_lt {s t : State} (h : Moves s t)
    (hlt : s.committedFrameIndex < t.committedFrameIndex) : s.state = .pageAccepted := by
  cases h with
  | pageAccepted hs => exact hs
  | startAccepted | eraseDone | wasReset => exact absurd hlt (Nat.not_lt_zero _)
  | _ => exact absurd hlt (lt_irrefl _)

theorem eq_awaitingPageCrc_of_edge {st : ProtoState} (h : edge st .pageAccepted = true) : st = .awaitingPageCrc := by
  cases st
  case awaitingPageCrc => rfl
  all_goals simp [edge] at h

/-- Settles O53: PAGE_ACCEPT alone commits, and `PageAccepted` is entered from `AwaitingPageCrc` by a response equal to
the accumulator. -/
theorem commitmentIsMonotone : Obligations.CommitmentIsMonotone := by
  intro s t hp hinv hstep
  have hmove := step_moves hp hstep
  refine ⟨hmove.committed_le (stateInv_taken hinv), hmove.pageAccepted_of_committed_lt, fun ht hne => ?_⟩
  have hchange : t.state ≠ s.state := fun h => hne (h.symm.trans ht)
  have hedge := stateChangesOnlyAlongTheTransitions s t hp hinv hstep hchange
  have hs : s.state = .awaitingPageCrc := eq_awaitingPageCrc_of_edge (ht ▸ hedge)
  rcases step_leaves_blocked hp (.inr hs) hstep hchange (by simp [ht]) with
    rfl | ⟨r, rest, hin, ⟨hs', -⟩ | ⟨-, rfl⟩⟩
  · simp at ht
  · simp [hs] at hs'
  · refine ⟨r, rest, hin, ?_⟩
    rcases acceptCrcAck_cases r (taken s) with ⟨-, h⟩ | ⟨hd, -⟩ | ⟨v, -, -, h⟩
    · simp [h] at ht
    · exact hd
    · simp [h] at ht

/-! ## An abort before the first frame -/

/-- Only an accepted START enters `Erasing`, with `Connect` and MSG.PROGRAM_START as its last operations, and nothing is
emitted before it is left (R151). -/
theorem Moves.keeps_onlyStarted {s t : State} (h : Moves s t) (hstarted : onlyStarted s) : onlyStarted t := by
  intro ht
  cases h with
  | stay | startMisaligned | startEmpty | cancelRecorded => exact hstarted ht
  | startAccepted => exact ⟨s.trace, by simp⟩
  | frameSent f hs => simp [hs] at ht
  | pageAccepted =>
    dsimp only at ht
    split at ht <;> simp at ht
  | abort | eraseDone | challengeSent | crcEqual | crcUnequal | pageRejected | completed | wasReset => simp at ht

/-- In `Erasing` only a response with the first byte 0x22 makes the error EraseFailed (R191). -/
theorem response_of_eraseFailed {s t : State} (hp : s.probe = none) (hs : s.state = .erasing)
    (hstep : step s = .next t) (ht : t.state = .aborted) (herror : t.error = .eraseFailed) :
    ∃ rest more, s.inputs = .rsp (0x22#8 :: more) :: rest := by
  rcases step_leaves_blocked hp (.inl hs) hstep (by simp [ht, hs]) (by simp [ht]) with
    rfl | ⟨r, rest, hin, ⟨-, rfl⟩ | ⟨hs', -⟩⟩
  · simp at herror
  · rcases acceptStartStatus_cases r (taken s) with ⟨-, h⟩ | ⟨b, more, rfl, rfl, -⟩ | ⟨b, more, -, -, h⟩
    · simp [h] at herror
    · exact ⟨rest, more, hin⟩
    · simp [h] at ht
  · simp [hs] at hs'

/-- Settles O54: an abort in `Erasing` is the abort entry, which emits at most `Close`. -/
theorem eraseFailureSendsNoFrame : Obligations.EraseFailureSendsNoFrame := by
  intro s t hp hstep
  have hmove := step_moves hp hstep
  refine ⟨hmove.keeps_onlyStarted, fun hs ht => ?_⟩
  obtain ⟨k, hk⟩ := hmove.eq_abortEntry (by simp [hs]) ht
  refine ⟨fun earlier hheld htrace => ?_, fun hdelivery => ?_, response_of_eraseFailed hp hs hstep ht⟩
  · simp [hk, taken, hheld, htrace]
  · have hfresh := (deliveryExact_iff_of_erasing hs).1 hdelivery
    by_cases hheld : s.tpHeld = true
    · simp [hk, taken, hheld, carried_append, hfresh]
    · simp [hk, taken, hheld, hfresh]

/-! ## Whole runs -/

/-- On these events, whatever comes after them, a run goes from `s` to `t`, a step for each. -/
def runsOn (es : List Event) (s t : State) : Prop :=
  ∀ (rest : List Event) (n : Nat), Host.Core.run Sys2Proof.core (n + es.length) { s with inputs := es ++ rest } =
    Host.Core.run Sys2Proof.core n { t with inputs := rest }

theorem runsOn_nil (s : State) : runsOn [] s s := fun _ _ => rfl

/-- A run begins with the rule selected for the oldest event. -/
theorem runsOn_cons {s t u : State} {e : Event} {es : List Event} {i : Instr} (hp : s.probe = none)
    (hsel : selectRule s.state s.cancelReq e = some i) (hw : wellFormed s.params i = true)
    (hx : ∀ rest, exec i { s with inputs := rest } = .next { t with inputs := rest }) (h : runsOn es t u) :
    runsOn (e :: es) s u := by
  intro rest n
  have hstep : step { s with inputs := e :: es ++ rest } = .next { t with inputs := es ++ rest } :=
    (stepRunsTheSelectedRule.1 { s with inputs := e :: (es ++ rest) } e _ i hp rfl hsel hw).trans (hx _)
  rw [List.length_cons, ← Nat.add_assoc, run_succ_of_step hstep, h rest n]

theorem runsOn_append {s t u : State} {es es' : List Event} (h : runsOn es s t) (h' : runsOn es' t u) :
    runsOn (es ++ es') s u := by
  intro rest n
  rw [List.length_append, Nat.add_comm es.length, ← Nat.add_assoc, List.append_assoc, h, h']

/-- A run on exactly the events to come. -/
theorem run_of_runsOn {s t : State} {es rest : List Event} (h : runsOn es s t) (hin : s.inputs = es ++ rest) :
    Host.Core.run Sys2Proof.core es.length s = .next { t with inputs := rest } := by
  have hrun := h rest 0
  rw [← hin, Nat.zero_add] at hrun
  exact hrun

/-! ## The one-frame page -/

/-- At the first and only frame of the image's last page, with no cancellation recorded. -/
structure AtOneFramePage (s : State) (f : Frame) : Prop where
  probe : s.probe = none
  state : s.state = .transferring
  cancelReq : s.cancelReq = false
  frameInPage : s.frameInPage = 0
  crcAccumulator : s.crcAccumulator = 0
  last : s.committedFrameIndex + 1 = s.imageLen / 8
  there : frameThere s s.committedFrameIndex f

/-- What FRAME leaves at a one-frame page: the frame is folded and sent as the challenge, the marker before it. -/
def challengedWith (f : Frame) (s : State) : State :=
  { s with
    crcAccumulator := crcSeq 0 (frameBytes f)
    trace := s.trace ++ [lastFrameMarkMsg, crcChallengeMsg s.params f]
    state := .awaitingPageCrc }

/-- What the answer to that challenge leaves (R160). -/
def answeredWith (st : ProtoState) (f : Frame) (s : State) : State := { challengedWith f s with state := st }

section
variable {s : State} {f : Frame} {r : List Byte}

theorem exec_frame_of_atOneFramePage (h : AtOneFramePage s f) : exec .frame s = .next (challengedWith f s) := by
  have hcur : s.committedFrameIndex + s.frameInPage.val = s.committedFrameIndex := by simp [h.frameInPage]
  obtain ⟨-, hframe⟩ := frameFoldsAndSendsTheCurrentFrame s h.state h.cancelReq
  rw [hcur] at hframe
  obtain ⟨-, -, hlast⟩ := hframe f h.there
  rw [hlast h.last, h.crcAccumulator]
  rfl

/-- FRAME and the device's answer to the challenge (R155, R160). -/
theorem runsOn_challenge {es : List Event} {t : State} {v : Crc} (h : AtOneFramePage s f) (hr : r.length ≤ 8)
    (hd : decodeCrcAck s.params.byteDecode r = some v)
    (hrest : runsOn es
      (answeredWith (if v = crcSeq 0 (frameBytes f) then .pageAccepted else .pageRejected) f s) t) :
    runsOn (.internal :: .rsp r :: es) s t := by
  have hsel : selectRule s.state s.cancelReq .internal = some .frame := by rw [h.state, h.cancelReq]; rfl
  refine runsOn_cons (t := challengedWith f s) h.probe hsel rfl (fun rest => exec_frame_of_atOneFramePage
    ⟨h.probe, h.state, h.cancelReq, h.frameInPage, h.crcAccumulator, h.last, h.there⟩) ?_
  refine runsOn_cons (i := .crcResp r) h.probe rfl (by simpa [wellFormed, fitsPayload] using hr) (fun rest => ?_) hrest
  exact (exec_crcResp rfl r).trans (congrArg _ (acceptCrcAck_of_decode hd))

/-- What one round of FRAME, a rejected challenge and PAGE_REJECT leaves: the cursor where it stood (R164). -/
def resent (f : Frame) (s : State) : State :=
  { s with trace := s.trace ++ [lastFrameMarkMsg, crcChallengeMsg s.params f, crcFailMsg s.params] }

theorem atOneFramePage_resent (h : AtOneFramePage s f) : AtOneFramePage (resent f s) f :=
  ⟨h.probe, h.state, h.cancelReq, h.frameInPage, h.crcAccumulator, h.last, h.there⟩

theorem exec_pageReject_answeredWith (h : AtOneFramePage s f) (rest : List Event) :
    exec .pageReject { answeredWith .pageRejected f s with inputs := rest } =
      .next { resent f s with inputs := rest } := by
  rw [pageRejectRewindsThePage _ rfl, Host.Outcome.next.injEq]
  obtain ⟨-, hstate, -, hfip, hcrc, -, -⟩ := h
  simp [answeredWith, challengedWith, resent, crcFailMsg, rep, codeByte, markerLen, hstate, hfip, hcrc]

/-- One round in which the device rejects the page (R160, R164). -/
theorem runsOn_rejected {v : Crc} (h : AtOneFramePage s f) (hr : r.length ≤ 8)
    (hd : decodeCrcAck s.params.byteDecode r = some v) (hv : v ≠ crcSeq 0 (frameBytes f)) :
    runsOn [.internal, .rsp r, .internal] s (resent f s) := by
  refine runsOn_challenge h hr hd ?_
  rw [if_neg hv]
  exact runsOn_cons (i := .pageReject) (t := resent f s) h.probe rfl rfl (exec_pageReject_answeredWith h)
    (runsOn_nil _)

end

/-- Any number of such rounds, by induction on their number: each leaves a state at the same page (R165). -/
theorem runsOn_rejected_rounds {f : Frame} {r : List Byte} {v : Crc} (hr : r.length ≤ 8)
    (hv : v ≠ crcSeq 0 (frameBytes f)) (n : Nat) {s : State} (h : AtOneFramePage s f)
    (hd : decodeCrcAck s.params.byteDecode r = some v) :
    runsOn (List.replicate n [Event.internal, .rsp r, .internal]).flatten s { s with
      trace := s.trace ++ (List.replicate n
        [lastFrameMarkMsg, crcChallengeMsg s.params f, crcFailMsg s.params]).flatten } := by
  induction n generalizing s with
  | zero => simpa using runsOn_nil s
  | succ n ih =>
    have hrounds := runsOn_append (runsOn_rejected h hr hd hv) (ih (atOneFramePage_resent h) hd)
    simpa [resent, List.replicate_succ] using hrounds

/-- Settles O56: `n` rounds are a run on the `3 * n` events of the schedule. -/
theorem rejectedPageIsResentWithoutLimit : Obligations.RejectedPageIsResentWithoutLimit := by
  intro n s f r v rest hp hs hc hfip hcrc hlast hthere hr hd hv hin
  have hrun := run_of_runsOn (runsOn_rejected_rounds hr hv n ⟨hp, hs, hc, hfip, hcrc, hlast, hthere⟩ hd) hin
  rw [show (List.replicate n [Event.internal, .rsp r, .internal]).flatten.length = 3 * n by simp; omega] at hrun
  exact hrun

/-! ## The one-frame image -/

/-- A frame laid out from offset 0 is the first frame of the image. -/
theorem slice_ofBytes_frameBytes (f : Frame) :
    Memory.slice (Memory.ofBytes 0 (frameBytes f)) (8 * 0) 8 = some (frameBytes f) :=
  Memory.slice_of_read (bs := frameBytes f) fun k _ => Memory.read_ofBytes 0 k (frameBytes f)

/-- After the start response the block stands at the image's one frame. -/
theorem atOneFramePage_erased {s : State} {f : Frame} (hp : s.probe = none)
    (himage : s.image = Memory.ofBytes 0 (frameBytes f)) : AtOneFramePage (erased (begun 8 s)) f where
  probe := hp
  state := rfl
  cancelReq := rfl
  frameInPage := rfl
  crcAccumulator := rfl
  last := by simp [erased, begun]
  there := ⟨le_rfl, by simpa [erased, begun, himage] using slice_ofBytes_frameBytes f⟩

/-- START and a start response that proceeds (R151, R153). -/
theorem runsOn_started {s t : State} {status : Byte} {more : List Byte} {es : List Event} (hp : s.probe = none)
    (hs : s.state = .idle) (hfits : 8 < 2 ^ s.params.addrW) (hstatus : status ≠ 0x22#8) (hmore : more.length ≤ 7)
    (hrest : runsOn es (erased (begun 8 s)) t) : runsOn (.start 8 :: .rsp (status :: more) :: es) s t := by
  refine runsOn_cons (i := .start 8) (t := begun 8 s) hp (congrArg some (if_pos hs)) (decide_eq_true hfits)
    (fun rest => exec_start_accepted hs rfl (by decide)) ?_
  refine runsOn_cons (i := .eraseResp (status :: more)) hp rfl (decide_eq_true (Nat.succ_le_succ hmore))
    (fun rest => ?_) hrest
  exact (exec_eraseResp rfl _).trans (congrArg _ (acceptStartStatus_of_proceed hstatus more _))

/-- PAGE_ACCEPT of the image's last page, and COMPLETE (R162, R166). -/
theorem runsOn_accepted_last {s : State} (hp : s.probe = none) (hs : s.state = .pageAccepted)
    (hall : committedAfter s = totalFrames s.imageLen) :
    runsOn [.internal, .internal] s (finished (pageTaken s)) := by
  have hstate : (pageTaken s).state = .completing := by simp [pageTaken, allConsumed, hall]
  refine runsOn_cons (i := .pageAccept) (t := pageTaken s) hp (by rw [hs]; rfl) rfl (fun rest => if_pos hs) ?_
  exact runsOn_cons (i := .complete) (t := finished (pageTaken s)) hp (by rw [hstate]; rfl) rfl
    (fun rest => if_pos hstate) (runsOn_nil _)

/-- Settles O57: the transfer begins, its one frame is challenged and accepted, and it completes. -/
theorem oneFrameImageIsTransferred : Obligations.OneFrameImageIsTransferred := by
  intro s f status more r hp hs himage hfits hstatus hmore hr hd hin
  have hpage := atOneFramePage_erased hp himage
  have hrun : runsOn [.start 8, .rsp (status :: more), .internal, .rsp r, .internal, .internal] s
      (finished (pageTaken (answeredWith .pageAccepted f (erased (begun 8 s))))) := by
    refine runsOn_started hp hs hfits hstatus hmore (runsOn_challenge hpage hr hd ?_)
    rw [if_pos rfl]
    refine runsOn_accepted_last hp rfl ?_
    simp [committedAfter, totalFrames, answeredWith, challengedWith, erased, begun]
  refine (run_of_runsOn (rest := []) hrun (by simpa using hin)).trans ?_
  simp [finished, pageTaken, answeredWith, challengedWith, erased, begun, committedAfter]

end Sys2Proof.Machine

/-! # Proofs: an abort is the abort entry and nothing else (spec/60_exceptions.md R200, R201) -/

namespace Sys2Proof.Machine

open Sys2Proof.Safety

/-- If `t` is newly `Aborted`, it is the abort entry of one of the five kinds, applied to `s` (R200, R201). -/
def abortsPrecisely (s t : State) : Prop :=
  s.state ≠ .aborted → t.state = .aborted → ∃ k, abortKind k ∧ t = abortEntry k s

theorem abortsPrecisely_abortEntry {k : ErrorKind} (hk : abortKind k) (s : State) :
    abortsPrecisely s (abortEntry k s) :=
  fun _ _ => ⟨k, hk, rfl⟩

theorem abortsPrecisely_of_state_eq {s t : State} (h : t.state = s.state) : abortsPrecisely s t :=
  fun hs ht => absurd (h.symm.trans ht) hs

theorem abortsPrecisely_of_not_aborted {s t : State} (h : t.state ≠ .aborted) : abortsPrecisely s t :=
  fun _ ht => absurd ht h

/-! ## The operations that the rows share -/

/-- A rule over a frame aborts outside the image (R195); within it, the rule's own effect counts. -/
theorem withFrame_abortsPrecisely {index : Nat} {s t : State} {k : Frame → State}
    (hk : ∀ f, abortsPrecisely s (k f)) (h : withFrame index s k = .next t) : abortsPrecisely s t := by
  rcases withFrame_next h with ⟨f, -, rfl⟩ | ⟨-, rfl⟩
  · exact hk f
  · exact abortsPrecisely_abortEntry (by simp [abortKind]) s

theorem acceptStartStatus_abortsPrecisely (r : List Byte) (s : State) :
    abortsPrecisely s (acceptStartStatus r s) := by
  rcases acceptStartStatus_cases r s with ⟨-, h⟩ | ⟨_, _, -, -, h⟩ | ⟨_, _, -, -, h⟩ <;> rw [h]
  · exact abortsPrecisely_abortEntry (by simp [abortKind]) s
  · exact abortsPrecisely_abortEntry (by simp [abortKind]) s
  · exact abortsPrecisely_of_not_aborted nofun

theorem acceptCrcAck_abortsPrecisely (r : List Byte) (s : State) : abortsPrecisely s (acceptCrcAck r s) := by
  rcases acceptCrcAck_cases r s with ⟨-, h⟩ | ⟨-, h⟩ | ⟨_, -, -, h⟩ <;> rw [h]
  · exact abortsPrecisely_abortEntry (by simp [abortKind]) s
  · exact abortsPrecisely_of_not_aborted nofun
  · exact abortsPrecisely_of_not_aborted nofun

/-- FRAME itself stays in its state or asks for the page's CRC (R155). -/
theorem processFrame_abortsPrecisely (s : State) (f : Frame) : abortsPrecisely s (processFrame s f) := by
  rcases processFrame_cases s f with ⟨-, h⟩ | ⟨_, -, h⟩ <;> rw [h]
  · exact abortsPrecisely_of_state_eq rfl
  · exact abortsPrecisely_of_not_aborted nofun

/-! ## The rows with branches of their own -/

/-- START begins the erase, or leaves the protocol state as it is (R151, R152). -/
theorem execStart_abortsPrecisely {len : Nat} {s t : State} (h : execStart len s = .next t) : abortsPrecisely s t := by
  unfold execStart at h
  split_ifs at h <;> obtain rfl := Host.Outcome.next.inj h
  · exact abortsPrecisely_of_state_eq rfl
  · exact abortsPrecisely_of_state_eq rfl
  · exact abortsPrecisely_of_state_eq rfl
  · exact abortsPrecisely_of_not_aborted nofun

/-- PAGE_ACCEPT goes on to the next page or completes (R162). -/
theorem execPageAccept_abortsPrecisely {s t : State} (h : execPageAccept s = .next t) : abortsPrecisely s t := by
  obtain rfl := eq_of_guarded_next h
  refine abortsPrecisely_of_not_aborted ?_
  dsimp only
  split <;> simp

theorem execCancel_abortsPrecisely {s t : State} (h : execCancel s = .next t) : abortsPrecisely s t := by
  obtain rfl := Host.Outcome.next.inj h
  refine abortsPrecisely_of_state_eq ?_
  split <;> rfl

theorem execReset_abortsPrecisely {s t : State} (h : execReset s = .next t) : abortsPrecisely s t := by
  unfold execReset at h
  split_ifs at h
  obtain rfl := Host.Outcome.next.inj h
  exact abortsPrecisely_of_not_aborted nofun

/-! ## Every row -/

/-- No row enters `Aborted` but by the abort entry. -/
theorem exec_abortsPrecisely {i : Instr} {s t : State} (h : exec i s = .next t) : abortsPrecisely s t := by
  cases i
  case msgProgramStart | msgLastFrameMark | msgCrcOk | msgCrcFail | msgProgramEnd | crcUpdate | crcBitstep | crcClear |
      crcFold8 | crcSeq | byteAddr | totalFrames | isLastFrame | isPageBoundary | curIndex | classify =>
    obtain rfl := Host.Outcome.next.inj h
    exact abortsPrecisely_of_state_eq rfl
  case msgWriteFrame | msgCrcChallenge | frameAt =>
    refine withFrame_abortsPrecisely (fun _ => ?_) h
    exact abortsPrecisely_of_state_eq rfl
  case frame =>
    simp only [exec, execFrame] at h
    split_ifs at h
    exact withFrame_abortsPrecisely (processFrame_abortsPrecisely s) h
  case rspStartStatus r | eraseResp r =>
    obtain rfl := eq_of_guarded_next h
    exact acceptStartStatus_abortsPrecisely r s
  case rspCrcAck r | crcResp r =>
    obtain rfl := eq_of_guarded_next h
    exact acceptCrcAck_abortsPrecisely r s
  case eraseTmo | crcTmo | frameCancel =>
    obtain rfl := eq_of_guarded_next h
    exact abortsPrecisely_abortEntry (by simp [abortKind]) s
  case startBusy =>
    obtain rfl := eq_of_guarded_next h
    exact abortsPrecisely_of_state_eq rfl
  case pageReject | complete =>
    obtain rfl := eq_of_guarded_next h
    exact abortsPrecisely_of_not_aborted nofun
  case start => exact execStart_abortsPrecisely h
  case pageAccept => exact execPageAccept_abortsPrecisely h
  case cancel => exact execCancel_abortsPrecisely h
  case reset => exact execReset_abortsPrecisely h

/-- Settles O36: the abort entry records its kind in `error`, so the kind is read off the next state. -/
theorem abortsArePrecise : Obligations.AbortsArePrecise := by
  intro i s t h hs ht
  obtain ⟨k, hk, rfl⟩ := exec_abortsPrecisely h hs ht
  exact ⟨hk, abortEntry_eq_abortedFrom k s⟩

end Sys2Proof.Machine

/-! # Proofs: RESET (spec/70_reset_and_hazards.md R220, R221) -/

namespace Sys2Proof.Machine

/-- R220: with the transport not held, RESET writes the registers. -/
theorem execReset_of_not_held {s : State} (h : s.tpHeld = false) : execReset s = .next (resetRegisters s) :=
  if_neg (Bool.eq_false_iff.1 h)

/-- R221: RESET has no meaning while the transport is held. -/
theorem execReset_of_held {s : State} (h : s.tpHeld = true) : execReset s = .refused .resetWhileHeld :=
  if_pos h

/-- Settles O35: RESET tests `tp_held` alone, and `resetRegisters` writes the eight registers and no other field. -/
theorem resetWritesEveryRegisterUnlessHeld : Obligations.ResetWritesEveryRegisterUnlessHeld :=
  fun _ => ⟨execReset_of_not_held, execReset_of_held⟩

end Sys2Proof.Machine
